-- ==== Sys2Proof/Word.lean ====
section
/-! DEFINITION. Words and bytes: every host register is 32 bits wide, every color channel and frame-memory byte 8 bits
(spec/00_scope.md R8). -/

namespace Sys2Proof

/-- A 32-bit host register or command word (R8). -/
abbrev Word := BitVec 32

/-- A byte: a color channel, a frame-memory byte, a byte on the two-wire bus (R8). -/
abbrev Byte := BitVec 8

end Sys2Proof
end

