-- ==== Sys2Proof/Config.lean ====
section
/-! DEFINITION. What is fixed for one instance of the block and what its environment chooses: the parameters of
spec/00_scope.md R7, the input ports of one cycle (spec/10_state.md R39), and the free values, constants with no body. -/

namespace Sys2Proof

/-- The recalibration function SMOOTH of R7: the reference formula, or any other function, named by a number. -/
inductive Smooth where
  /-- max(1, (raw + cal) div 2), the reference of R7 and R239. -/
  | reference
  /-- Another function an implementation chooses (spec/93_implementation_defined.md I8). -/
  | custom (id : Nat)
deriving DecidableEq, Repr

/-- The implementation parameters, in the order of R7's table. -/
structure Params where
  /-- F_CLK_HZ, frequency of `clk`; no rule reads it (I12). -/
  fClkHz : Nat
  /-- N_PIX, physical LED count. -/
  nPix : Nat
  /-- T0H_CYC, high time of a '0' bit. -/
  t0hCyc : Nat
  /-- T1H_CYC, high time of a '1' bit. -/
  t1hCyc : Nat
  /-- TBIT_CYC, total bit period. -/
  tbitCyc : Nat
  /-- LATCH_CYC, low time after the last bit. -/
  latchCyc : Nat
  /-- I2C_H_CYC, length of one half bit on the two-wire bus. -/
  i2cHCyc : Nat
  /-- STRETCH_MAX, longest wait before TIMEOUT. -/
  stretchMax : Nat
  /-- TICK_PEND_DEPTH, ticks held pending while masked: 0 or 1. -/
  tickPendDepth : Fin 2
  /-- SMOOTH, the recalibration function. -/
  smooth : Smooth
deriving DecidableEq, Repr

/-- The reference configuration, the last column of R7's table. -/
def Params.reference : Params where
  fClkHz := 20000000
  nPix := 60
  t0hCyc := 7
  t1hCyc := 15
  tbitCyc := 24
  latchCyc := 1000
  i2cHCyc := 100
  stretchMax := 20000
  tickPendDepth := 1
  smooth := .reference

/-- The block's inputs during one cycle (R39), with the two environment draws of spec/43_rtc.md R181 in place of the
levels `scl_i` and `sda_i`, which follow from them and the block's own drives. -/
structure CycleIn where
  /-- `rst`, synchronous reset, active high. -/
  rst : Bool
  /-- `h_req`: 0 none, 1 read, 2 write, 3 treated as none. -/
  hReq : BitVec 2
  /-- `h_addr`, the word index of the register accessed. -/
  hAddr : BitVec 4
  /-- `h_wdata`, write data. -/
  hWdata : Word
  /-- `tick_i`, the tick strobe. -/
  tick : Bool
  /-- Another agent pulls SCL low in this cycle. -/
  envSclLow : Bool
  /-- Another agent pulls SDA low in this cycle. -/
  envSdaLow : Bool
deriving DecidableEq, Repr, Inhabited

/-- Free value: the inputs of the cycle with this number, where the queue of inputs holds none. The host, the tick
source, the platform's reset and the bus environment choose them under no law (R6, R181, I7, I13). Log 3. -/
opaque Config.drawnInput : Nat → CycleIn

/-- Free value: the value of the recalibration function with this number at (raw, cal), before the floor of 1 that
R239 obliges it to keep. Log 8. -/
opaque Config.customSmooth : Nat → Word → Word → Word

end Sys2Proof
end

