-- ==== Sys2Proof/Syntax.lean ====
section
/-! DEFINITION. The ten commands of spec/opcode_table.json (spec/30_encoding.md R97), with their operands as the
assembler statements of R101 give them: unsigned numbers (R9, R95). Which numbers fit their fields is
Sys2Proof/WellFormed.lean. -/

namespace Sys2Proof

/-- A command, one constructor per row of the opcode map (R97). -/
inductive Instr where
  /-- NOP, no operation (spec/40_command.md R124). -/
  | nop
  /-- TX, transmit the frame memory (spec/42_transmit.md R150). -/
  | tx
  /-- CLEAR, zero the frame memory (spec/41_framebuffer.md R131). -/
  | clear
  /-- PSET i, write one logical pixel (R132). -/
  | pset (i : Nat)
  /-- PADD i, saturating accumulate into one logical pixel (R133). -/
  | padd (i : Nat)
  /-- PGET p, read one physical pixel into RESULT (R134). -/
  | pget (p : Nat)
  /-- SETOFF o, set the logical-to-physical offset (R135). -/
  | setoff (o : Nat)
  /-- RTCRD, read the RTC (spec/43_rtc.md R201). -/
  | rtcrd
  /-- RTCWR h, m, s, write the RTC (spec/43_rtc.md R205). -/
  | rtcwr (h m s : Nat)
  /-- RECAL c, recalibrate when c is 1 (spec/44_millis.md R238). -/
  | recal (c : Bool)
deriving DecidableEq, Repr

end Sys2Proof
end

