-- ==== Sys2Proof/WellFormed.lean ====
section
/-! DEFINITION. Which commands fit their encoding fields (spec/30_encoding.md R95, R101: "An assembler refuses an operand
that does not fit its field") and which parameters are legal (spec/00_scope.md R7). An operand that fits its field but is
out of its command's legal range is well formed: the block rejects it with ARG (R95, spec/40_command.md R127). -/

namespace Sys2Proof

/-- The operand fits its field: 16 bits for an index, 5 for an hour, 6 for a minute or a second (R92, R93, R95). -/
def Instr.wf : Instr → Bool
  | .nop => true
  | .tx => true
  | .clear => true
  | .pset i => decide (i < 2 ^ 16)
  | .padd i => decide (i < 2 ^ 16)
  | .pget p => decide (p < 2 ^ 16)
  | .setoff o => decide (o < 2 ^ 16)
  | .rtcrd => true
  | .rtcwr h m s => decide (h < 2 ^ 5) && decide (m < 2 ^ 6) && decide (s < 2 ^ 6)
  | .recal _ => true

/-- The parameters meet the exact constraints of R7's table: F_CLK_HZ > 0, 1 ≤ N_PIX ≤ 65535,
T0H_CYC < T1H_CYC < TBIT_CYC, LATCH_CYC / F_CLK_HZ ≥ 10 µs, I2C_H_CYC ≥ 1, STRETCH_MAX ≥ 1. (TICK_PEND_DEPTH is 0 or 1 by
its type; SMOOTH's obligation is met by the operation that applies it.) The ranges with a "~" are `nominalPulses`. -/
abbrev Params.Ok (p : Params) : Prop :=
  0 < p.fClkHz ∧ 1 ≤ p.nPix ∧ p.nPix ≤ 65535 ∧ p.t0hCyc < p.t1hCyc ∧ p.t1hCyc < p.tbitCyc ∧
    p.fClkHz ≤ p.latchCyc * 100000 ∧ 1 ≤ p.i2cHCyc ∧ 1 ≤ p.stretchMax

/-- The high times lie in the source's approximate ranges, read as exact: 0.3 to 0.4 µs for '0', 0.7 to 0.8 µs for '1'
(R7). The "~" admits values slightly outside (spec/93_implementation_defined.md I1, I2), so no rule demands this. -/
abbrev Params.NominalPulses (p : Params) : Prop :=
  3 * p.fClkHz ≤ p.t0hCyc * 10000000 ∧ p.t0hCyc * 10000000 ≤ 4 * p.fClkHz ∧
    7 * p.fClkHz ≤ p.t1hCyc * 10000000 ∧ p.t1hCyc * 10000000 ≤ 8 * p.fClkHz

end Sys2Proof
end

