-- ==== Sys2Proof/Decode.lean ====
section
/-! DEFINITION. The decoder of a command word, total on all 2^32 words (spec/30_encoding.md R97, R98, R100), and after it
the encoder, written from the format tables (R91 to R94). A command is one 32-bit word with no byte order (R68, R90). -/

namespace Sys2Proof

/-- Why a word is ILLEGAL (R98). -/
inductive Illegal where
  /-- The opcode is 0xA to 0xF. -/
  | reservedOpcode
  /-- A bit that the opcode's format marks "reserved, must be 0" is 1. -/
  | reservedBits
deriving DecidableEq, Repr

/-- A decoder selects a row when (w & mask) == match (R97). -/
def rowMatches (w mask pat : Word) : Bool := w &&& mask == pat

/-- `v[hi:lo]` as an unsigned number, given by its lowest bit and its width (R9). -/
def field (w : Word) (lo width : Nat) : Nat := (w.extractLsb' lo width).toNat

/-- The opcode, bits 31:28 (R90). -/
def opcodeField (w : Word) : Nat := field w 28 4

/-- `idx = w[15:0]` (R92, R95). -/
def idxField (w : Word) : Nat := field w 0 16

/-- `hour = w[20:16]` (R93, R95). -/
def hourField (w : Word) : Nat := field w 16 5

/-- `minute = w[13:8]` (R93, R95). -/
def minuteField (w : Word) : Nat := field w 8 6

/-- `second = w[5:0]` (R93, R95). -/
def secondField (w : Word) : Nat := field w 0 6

/-- `c = w[0]` (R94, R95). -/
def cField (w : Word) : Bool := w.getLsbD 0

/-- Decode one command word by the match and mask columns of R97; a word of no row is ILLEGAL (R98). -/
def decode (w : Word) : Except Illegal Instr :=
  if rowMatches w 0xFFFFFFFF 0x00000000 then .ok .nop
  else if rowMatches w 0xFFFFFFFF 0x10000000 then .ok .tx
  else if rowMatches w 0xFFFFFFFF 0x20000000 then .ok .clear
  else if rowMatches w 0xFFFF0000 0x30000000 then .ok (.pset (idxField w))
  else if rowMatches w 0xFFFF0000 0x40000000 then .ok (.padd (idxField w))
  else if rowMatches w 0xFFFF0000 0x50000000 then .ok (.pget (idxField w))
  else if rowMatches w 0xFFFF0000 0x60000000 then .ok (.setoff (idxField w))
  else if rowMatches w 0xFFFFFFFF 0x70000000 then .ok .rtcrd
  else if rowMatches w 0xFFE0C0C0 0x80000000 then .ok (.rtcwr (hourField w) (minuteField w) (secondField w))
  else if rowMatches w 0xFFFFFFFE 0x90000000 then .ok (.recal (cField w))
  else if 0xA ≤ opcodeField w then .error .reservedOpcode
  else .error .reservedBits

/-- The decoder on a word given by its bits, bit 0 the least significant (spec/opcode_table.json). Every command is one
32-bit word (R90), so bits above 31 do not exist and bits from `nbits` on are 0. -/
def decodeTableWord (nbits w : Nat) : Option Instr :=
  match decode (BitVec.ofNat 32 (w % 2 ^ nbits)) with
  | .ok i => some i
  | .error _ => none

/-- A field's value at its place in a 32-bit word, the other bits 0. -/
def place {n : Nat} (v : BitVec n) (lo : Nat) : Word := v.setWidth 32 <<< lo

/-- Format Z: the opcode in bits 31:28, the others 0 (R91). -/
def formatZ (op : BitVec 4) : Word := place op 28

/-- Format I: the opcode and `idx` in bits 15:0 (R92). -/
def formatI (op : BitVec 4) (idx : Nat) : Word := place op 28 ||| place (BitVec.ofNat 16 idx) 0

/-- Format T: the opcode, `hour` in bits 20:16, `minute` in bits 13:8, `second` in bits 5:0 (R93). -/
def formatT (op : BitVec 4) (h m s : Nat) : Word :=
  place op 28 ||| place (BitVec.ofNat 5 h) 16 ||| place (BitVec.ofNat 6 m) 8 ||| place (BitVec.ofNat 6 s) 0

/-- Format B: the opcode and `c` in bit 0 (R94). -/
def formatB (op : BitVec 4) (c : Bool) : Word := place op 28 ||| place (BitVec.ofBool c) 0

/-- The word of a well-formed command (R91 to R94, R97). -/
def encode : Instr → Word
  | .nop => formatZ 0x0
  | .tx => formatZ 0x1
  | .clear => formatZ 0x2
  | .pset i => formatI 0x3 i
  | .padd i => formatI 0x4 i
  | .pget p => formatI 0x5 p
  | .setoff o => formatI 0x6 o
  | .rtcrd => formatZ 0x7
  | .rtcwr h m s => formatT 0x8 h m s
  | .recal c => formatB 0x9 c

/-- The mask and the match of each row of the opcode map (R97). -/
def Instr.row : Instr → Word × Word
  | .nop => (0xFFFFFFFF, 0x00000000)
  | .tx => (0xFFFFFFFF, 0x10000000)
  | .clear => (0xFFFFFFFF, 0x20000000)
  | .pset _ => (0xFFFF0000, 0x30000000)
  | .padd _ => (0xFFFF0000, 0x40000000)
  | .pget _ => (0xFFFF0000, 0x50000000)
  | .setoff _ => (0xFFFF0000, 0x60000000)
  | .rtcrd => (0xFFFFFFFF, 0x70000000)
  | .rtcwr _ _ _ => (0xFFE0C0C0, 0x80000000)
  | .recal _ => (0xFFFFFFFE, 0x90000000)

end Sys2Proof
end

