-- ==== Sys2Proof/Machine/State.lean ====
section
/-! DEFINITION. The state of NEOCLOCK-TC as plain data (spec/10_state.md): the registers a host sees, the frame memory, the
engine state of LTX, RTCM and MSYNC, the command processor, and the model's own bookkeeping (configuration, queue of
inputs, cycle number, last read data). Reset values: R41. -/

namespace Sys2Proof.Machine

/-- The long command executing (R38). -/
inductive CurOp where
  | none
  | tx
  | rtcrd
  | rtcwr
deriving DecidableEq, Repr

/-- Why the last write to CMD was rejected (spec/60_exceptions.md R261). -/
inductive RejCode where
  | none
  | busy
  | illegal
  | arg
deriving DecidableEq, Repr

/-- The bus phase of spec/43_rtc.md R200. -/
inductive BusPhase where
  | write
  | read
deriving DecidableEq, Repr

/-- The bus status codes (spec/60_exceptions.md R264). -/
inductive BusCode where
  | none
  | addrNack
  | dataNack
  | arbLost
  | timeout
  | range
deriving DecidableEq, Repr

/-- What BusFail(phase, code) reports (spec/60_exceptions.md R265). -/
structure BusError where
  phase : BusPhase
  code : BusCode
deriving DecidableEq, Repr

/-- What LTX is doing (R35). -/
inductive TxPhase where
  | idle
  | wait
  | bits
  | latch
deriving DecidableEq, Repr

/-- An hour, a minute and a second in binary, in the widths of the register TIME (R27) and of format T. -/
structure TimeOfDay where
  hour : BitVec 5
  min : BitVec 6
  sec : BitVec 6
deriving DecidableEq, Repr

/-- The three bytes of an RTC read: device offsets 0, 1 and 2 (spec/43_rtc.md R202). -/
structure RxBytes where
  sec : Byte
  min : Byte
  hour : Byte
deriving DecidableEq, Repr

/-- Memory as (address, byte) cells in one canonical form: addresses strictly rising, and no cell equal to what an
unlisted address reads as. -/
structure Memory where
  cells : List Host.Cell
deriving DecidableEq, Repr

/-- The command processor and its registers. -/
structure CmdUnit where
  /-- `ARG`, the color operand of PSET and PADD (R24). -/
  arg : Word
  /-- `curOp`; STATUS.BUSY and STATUS.TXACT are functions of it (R38). -/
  curOp : CurOp
  /-- STATUS.DONE (R25). -/
  done : Bool
  /-- STATUS.REJ (R25). -/
  rej : Bool
  /-- STATUS.REJCODE (R25). -/
  rejCode : RejCode
deriving DecidableEq, Repr

/-- FMEM: the frame memory, the offset and PGET's result. -/
structure FmemUnit where
  /-- `FB`, 3·N_PIX bytes in wire order G, R, B (R34). -/
  fb : Memory
  /-- `OFFSET` (R32). -/
  offset : BitVec 16
  /-- `RESULT` (R26). -/
  result : Word
deriving DecidableEq, Repr

/-- LTX, the LED transmitter (R35). -/
structure LtxUnit where
  /-- `txPhase`. -/
  txPhase : TxPhase
  /-- `txBit`, index of the frame bit being sent. -/
  txBit : Nat
  /-- `txCyc`, cycle within the current bit or the latch gap. -/
  txCyc : Nat
  /-- `lowRun`, consecutive low cycles of `led_o`, saturating at LATCH_CYC. -/
  lowRun : Nat
  /-- `led_o`, the level of the data line in the current cycle. -/
  ledO : Bool
deriving DecidableEq, Repr

/-- RTCM, the two-wire master (R36), with the registers and STATUS fields it writes. -/
structure RtcmUnit where
  /-- `TIME`, the last good RTC read (R27). -/
  time : TimeOfDay
  /-- `RTCRAW`, the raw bytes last received (R28). -/
  rtcRaw : Word
  /-- STATUS.BUSERR (R25). -/
  busErr : Bool
  /-- STATUS.BUSPHASE (R25). -/
  busPhase : BusPhase
  /-- STATUS.BUSCODE (R25). -/
  busCode : BusCode
  /-- STATUS.SECCHG (R25). -/
  secChg : Bool
  /-- `rtSeg`, the current segment of the operation's list; none when idle. -/
  rtSeg : Option Nat
  /-- `rtWait`, cycles waited so far in the current high segment. -/
  rtWait : Nat
  /-- `rtCnt`, cycles counted so far in the current segment. -/
  rtCnt : Nat
  /-- `rtShift`, the byte being sent or received. -/
  rtShift : Byte
  /-- `rtRx`, bytes received so far in an RTCRD. -/
  rtRx : RxBytes
  /-- `scl_oe`: RTCM pulls SCL low. -/
  sclOe : Bool
  /-- `sda_oe`: RTCM pulls SDA low. -/
  sdaOe : Bool
  /-- The NACK whose recovery STOP is being sent, "the first error found" (spec/43_rtc.md R195). DEDUCED, log 11. -/
  rtErr : Option BusError
  /-- The operands an accepted RTCWR holds for its whole length (spec/43_rtc.md R205). Log 10. -/
  held : TimeOfDay
deriving DecidableEq, Repr

/-- MSYNC, the millisecond synchronizer. ELAPSED is a function of it (R29). -/
structure MsyncUnit where
  /-- `RAWTICKS` (R30). -/
  rawTicks : Word
  /-- `CALIB` (R31). -/
  calib : Word
  /-- The pending-tick latch, STATUS.TICKPEND (R37). -/
  tickPend : Bool
deriving DecidableEq, Repr

/-- The whole machine at the start of a cycle. -/
structure State where
  /-- The parameters of this instance (spec/00_scope.md R7); every step keeps them. Log 1. -/
  cfg : Params
  cmd : CmdUnit
  fmem : FmemUnit
  ltx : LtxUnit
  rtcm : RtcmUnit
  msync : MsyncUnit
  /-- The model's own: what `h_rdata` carried in the last cycle (R60); 0 if that cycle was no read, which for a
  write is the model's choice. Logs 6 and 29. -/
  hRdata : Word
  /-- The model's own: how many cycles have run, the index of the free draws. Log 7. -/
  cycle : Nat
  /-- The model's own: the inputs of this cycle and of the next ones, oldest first. Log 2. -/
  inputs : List CycleIn
deriving DecidableEq, Repr

/-- Why the machine stops with a fault. The spec has no traps (spec/60_exceptions.md R267). -/
inductive Fault where
  /-- MemRead or MemWrite of a frame-memory byte at or above 3·N_PIX, an address that does not exist (spec/20_memory.md
  R64: "requires 0 <= a < 3*N_PIX"). Raised by the frame-memory primitives. Safe: R64 derives that no caller does it, and
  no state with legal parameters and `txBit` in range raises it. Log 9. -/
  | frameAddress (a : Nat)
deriving DecidableEq, Repr

/-- Why an instruction is refused. -/
inductive Refusal where
  /-- An instruction that has no meaning yet; raised by `exec`'s arm. Safe. No arm raises it now. -/
  | notModelled (mnemonic : String)
deriving DecidableEq, Repr

/-- 00:00:00, the source's "zeroed time" (R27). -/
def TimeOfDay.zero : TimeOfDay := { hour := 0, min := 0, sec := 0 }

/-- The state after reset of an instance with the given parameters (R41). -/
def State.resetWith (p : Params) : State where
  cfg := p
  cmd := { arg := 0, curOp := .none, done := false, rej := false, rejCode := .none }
  fmem := { fb := { cells := [] }, offset := 0, result := 0 }
  ltx := { txPhase := .idle, txBit := 0, txCyc := 0, lowRun := 0, ledO := false }
  rtcm :=
    { time := TimeOfDay.zero, rtcRaw := 0, busErr := false, busPhase := .write, busCode := .none, secChg := false,
      rtSeg := none, rtWait := 0, rtCnt := 0, rtShift := 0, rtRx := { sec := 0, min := 0, hour := 0 },
      sclOe := false, sdaOe := false, rtErr := none, held := TimeOfDay.zero }
  msync := { rawTicks := 0, calib := 1000, tickPend := false }
  hRdata := 0
  cycle := 0
  inputs := []

/-- The machine right after reset, in the reference configuration of R7. -/
def State.reset : State := State.resetWith Params.reference

end Sys2Proof.Machine
end

