-- ==== Sys2Proof/Machine/Flags.lean ====
section
/-! DEFINITION. The STATUS register and its fields (spec/10_state.md R25, R38, R40). There are no condition codes; these are
the only status bits. -/

namespace Sys2Proof.Machine

/-- STATUS.BUSY = 1 exactly when `curOp` is not NONE (R38). -/
def State.busy (s : State) : Bool := decide (s.cmd.curOp ≠ .none)

/-- STATUS.TXACT = 1 exactly when `curOp` is TX (R38). -/
def State.txAct (s : State) : Bool := decide (s.cmd.curOp = .tx)

/-- The two bits of REJCODE (spec/60_exceptions.md R261). -/
def rejBits : RejCode → BitVec 2
  | .none => 0
  | .busy => 1
  | .illegal => 2
  | .arg => 3

/-- The bit of BUSPHASE (spec/43_rtc.md R200). -/
def phaseBit : BusPhase → BitVec 1
  | .write => 0
  | .read => 1

/-- The four bits of BUSCODE (spec/60_exceptions.md R264). -/
def busBits : BusCode → BitVec 4
  | .none => 0
  | .addrNack => 1
  | .dataNack => 2
  | .arbLost => 3
  | .timeout => 4
  | .range => 5

/-- The register STATUS: BUSCODE in bits 15:12, REJCODE 9:8, REJ 7, TICKPEND 6, SECCHG 5, BUSPHASE 4, BUSERR 3, DONE 2,
TXACT 1, BUSY 0; bits 31:16 and 11:10 read 0 (R25). -/
def statusWord (s : State) : Word :=
  place (busBits s.rtcm.busCode) 12 ||| place (rejBits s.cmd.rejCode) 8 ||| place (BitVec.ofBool s.cmd.rej) 7 |||
    place (BitVec.ofBool s.msync.tickPend) 6 ||| place (BitVec.ofBool s.rtcm.secChg) 5 |||
    place (phaseBit s.rtcm.busPhase) 4 ||| place (BitVec.ofBool s.rtcm.busErr) 3 |||
    place (BitVec.ofBool s.cmd.done) 2 ||| place (BitVec.ofBool s.txAct) 1 ||| place (BitVec.ofBool s.busy) 0

/-- The register TIME: HOUR in bits 20:16, MIN 13:8, SEC 5:0, the others 0 (R27). -/
def timeWord (t : TimeOfDay) : Word := place t.hour 16 ||| place t.min 8 ||| place t.sec 0

end Sys2Proof.Machine
end

