-- ==== Sys2Proof/Machine/Operands.lean ====
section
/-! DEFINITION. The operand forms and the value arithmetic of the commands: the color operand in ARG, the
logical-to-physical map, saturating channel addition, BCD, and the recalibration and interpolation formulas. -/

namespace Sys2Proof.Machine

/-- A color as three independent 8-bit lanes (spec/41_framebuffer.md R130). -/
structure Color where
  r : Byte
  g : Byte
  b : Byte
deriving DecidableEq, Repr

/-- The color operand: ARG[23:16] red, ARG[15:8] green, ARG[7:0] blue; ARG[31:24] ignored (spec/30_encoding.md R96). -/
def colorOf (arg : Word) : Color where
  r := arg.extractLsb' 16 8
  g := arg.extractLsb' 8 8
  b := arg.extractLsb' 0 8

/-- The host color word 0x00RRGGBB (spec/20_memory.md R68, spec/41_framebuffer.md R134). -/
def colorWord (c : Color) : Word := place c.r 16 ||| place c.g 8 ||| place c.b 0

/-- `phys(i) = (i + OFFSET) mod N_PIX`, on naturals (spec/20_memory.md R63). -/
def phys (s : State) (i : Nat) : Nat := (i + s.fmem.offset.toNat) % s.cfg.nPix

/-- `sat8(v) = min(255, v)` (spec/00_scope.md R9). -/
def sat8 (v : Nat) : Byte := BitVec.ofNat 8 (min 255 v)

/-- `SatAdd8(a, b)` (spec/41_framebuffer.md R130). -/
def satAdd8 (a b : Byte) : Byte := sat8 (a.toNat + b.toNat)

/-- `bcd(v) = ((v div 10) << 4) | (v mod 10)` (spec/43_rtc.md R198). -/
def bcd (v : Nat) : Byte := (BitVec.ofNat 8 (v / 10) <<< 4) ||| BitVec.ofNat 8 (v % 10)

/-- The hours byte an RTCWR sends: `bcd(h) & 0xBF`, bit 6 forced to 0 (R198). -/
def hourByte (h : Nat) : Byte := bcd h &&& 0xBF

/-- `dec(x) = (x >> 4) * 10 + (x & 0x0F)`, on the whole byte (R199). -/
def bcdDec (x : Byte) : Nat := (x >>> 4).toNat * 10 + (x &&& 0x0F).toNat

/-- `valid(x, max)`: both nibbles at most 9 and the decoded value at most `max` (R199). -/
def bcdValid (x : Byte) (limit : Nat) : Bool :=
  decide ((x >>> 4).toNat ≤ 9) && decide ((x &&& 0x0F).toNat ≤ 9) && decide (bcdDec x ≤ limit)

/-- The RANGE check of RTCRD: seconds, minutes and hours valid for 59, 59 and 23 (R199, R202). -/
def rxValid (x : RxBytes) : Bool := bcdValid x.sec 59 && bcdValid x.min 59 && bcdValid x.hour 23

/-- The decoded time of three received bytes (R203). -/
def rxTime (x : RxBytes) : TimeOfDay where
  hour := BitVec.ofNat 5 (bcdDec x.hour)
  min := BitVec.ofNat 6 (bcdDec x.min)
  sec := BitVec.ofNat 6 (bcdDec x.sec)

/-- `{8'h00, rtRx[2], rtRx[1], rtRx[0]}`, the value RTCRAW takes (R203). -/
def rxRaw (x : RxBytes) : Word := place x.hour 16 ||| place x.min 8 ||| place x.sec 0

/-- An hour, minute and second in the ranges 23, 59 and 59 (spec/40_command.md R127, spec/10_state.md R42). -/
def timeInRange (h m s : Nat) : Bool := decide (h ≤ 23) && decide (m ≤ 59) && decide (s ≤ 59)

/-- The largest value of a 32-bit register, where RAWTICKS saturates (spec/44_millis.md R232). -/
def maxTicks : Nat := 0xFFFFFFFF

/-- SMOOTH(raw, cal) (R239). The reference is max(1, (raw + cal) div 2), the sum taken without overflow; another function is
free but for its obligation to answer 1 to 0xFFFFFFFF (log 8). -/
def smooth : Smooth → Word → Word → Word
  | .reference, raw, cal => BitVec.ofNat 32 (max 1 ((raw.toNat + cal.toNat) / 2))
  | .custom k, raw, cal => if Config.customSmooth k raw cal = 0 then 1 else Config.customSmooth k raw cal

/-- `min(1000, (RAWTICKS * 1000) div CALIB)`, the product exact, the division truncating (R236). -/
def elapsedMs (raw calib : Word) : Nat := min 1000 (raw.toNat * 1000 / calib.toNat)

/-- RAWTICKS after counting `n` more ticks: saturating (R232, R243). -/
def addTicks (raw : Word) (n : Nat) : Word := BitVec.ofNat 32 (min maxTicks (raw.toNat + n))

end Sys2Proof.Machine
end

