-- ==== Sys2Proof/Machine/Ops.lean ====
section
/-! DEFINITION. The named operations every meaning and engine is written over: memory, the frame-memory primitives, issue,
acceptance and rejection of a command (the block's way of reporting an error, spec/60_exceptions.md R260), a bus error
(R265), completion of a long command, and reset. -/

namespace Sys2Proof.Machine

/-! ## Memory -/

/-- What an unlisted address of the frame memory reads as: 0, its reset contents (spec/10_state.md R34). -/
def Memory.unlisted : Byte := 0

/-- The byte listed for an address, or what an unlisted address reads as. -/
def cellsRead : List Host.Cell → Nat → Byte
  | [], _ => Memory.unlisted
  | (k, v) :: rest, a => if k = a then v else cellsRead rest a

/-- List a byte at an address, keeping the canonical form: the cells stay sorted, and a byte equal to what an unlisted
address reads as is not listed. -/
def cellsWrite : List Host.Cell → Nat → Byte → List Host.Cell
  | [], a, v => if v = Memory.unlisted then [] else [(a, v)]
  | (k, b) :: rest, a, v =>
    if a < k then (if v = Memory.unlisted then (k, b) :: rest else (a, v) :: (k, b) :: rest)
    else if a = k then (if v = Memory.unlisted then rest else (a, v) :: rest)
    else (k, b) :: cellsWrite rest a v

/-- Read one byte. -/
def Memory.read (m : Memory) (a : Nat) : Byte := cellsRead m.cells a

/-- Write one byte. -/
def Memory.write (m : Memory) (a : Nat) (v : Byte) : Memory := { cells := cellsWrite m.cells a v }

/-- Write 0 to the bytes 0 to n - 1, the loop of CLEAR (spec/41_framebuffer.md R131). -/
def Memory.clearBelow (m : Memory) : Nat → Memory
  | 0 => m
  | n + 1 => (m.clearBelow n).write n 0

/-- The canonical form: addresses strictly rising, no listed byte equal to what an unlisted address reads as. -/
abbrev Memory.wf (m : Memory) : Prop :=
  m.cells.Pairwise (fun c d => c.1 < d.1) ∧ ∀ c ∈ m.cells, c.2 ≠ Memory.unlisted

/-! ## Outcomes -/

/-- Go on with a value, or stop where the first computation stopped. -/
def bindNext {α β : Type} (o : Host.Outcome α Fault Refusal) (f : α → Host.Outcome β Fault Refusal) :
    Host.Outcome β Fault Refusal :=
  match o with
  | .next a => f a
  | .fault e => .fault e
  | .refused e => .refused e

/-! ## Frame memory (spec/20_memory.md R62, R64) -/

/-- How many bytes the frame memory has. -/
def fbSize (s : State) : Nat := 3 * s.cfg.nPix

/-- `MemRead(a, 1)`; an address that does not exist faults (R64, log 9). -/
def memRead (s : State) (a : Nat) : Host.Outcome Byte Fault Refusal :=
  if a < fbSize s then .next (s.fmem.fb.read a) else .fault (.frameAddress a)

/-- `MemWrite(a, 1, v)`; an address that does not exist faults (R64, log 9). -/
def memWrite (s : State) (a : Nat) (v : Byte) : Host.Outcome State Fault Refusal :=
  if a < fbSize s then .next { s with fmem := { s.fmem with fb := s.fmem.fb.write a v } } else .fault (.frameAddress a)

/-- The color of physical slot `p`: green, red and blue at bytes 3p, 3p+1, 3p+2 (R62). -/
def readPixel (s : State) (p : Nat) : Host.Outcome Color Fault Refusal :=
  bindNext (memRead s (3 * p)) fun g =>
    bindNext (memRead s (3 * p + 1)) fun r =>
      bindNext (memRead s (3 * p + 2)) fun b => .next { r := r, g := g, b := b }

/-- Write the three bytes of physical slot `p` (R62). -/
def writePixel (s : State) (p : Nat) (c : Color) : Host.Outcome State Fault Refusal :=
  bindNext (memWrite s (3 * p) c.g) fun s1 =>
    bindNext (memWrite s1 (3 * p + 1) c.r) fun s2 => memWrite s2 (3 * p + 2) c.b

/-- Color addition, each lane saturating on its own (spec/41_framebuffer.md R130). -/
def addColor (x y : Color) : Color where
  r := satAdd8 x.r y.r
  g := satAdd8 x.g y.g
  b := satAdd8 x.b y.b

/-! ## Issue, acceptance and rejection of a command (spec/40_command.md R120, R121; spec/60_exceptions.md R260) -/

/-- `raise Reject(code)`: STATUS.REJ and STATUS.REJCODE, and nothing else (R260). -/
def reject (code : RejCode) (s : State) : State :=
  { s with cmd := { s.cmd with rej := true, rejCode := code } }

/-- The acceptance effects of an instantaneous command: REJ and REJCODE cleared, DONE set (R121). -/
def acceptNow (s : State) : State :=
  { s with cmd := { s.cmd with rej := false, rejCode := .none, done := true } }

/-- The acceptance effects of a long command: REJ, REJCODE and DONE cleared, `curOp` set (R121, R122). -/
def acceptLong (op : CurOp) (s : State) : State :=
  { s with cmd := { s.cmd with rej := false, rejCode := .none, done := false, curOp := op } }

/-- What every decoded command goes through before its own rule: BUSY, then the operand check ArgOk, then acceptance
(R120, R126, R127). -/
def issue (argOk : Bool) (s : State) (accepted : Host.Outcome State Fault Refusal) : Host.Outcome State Fault Refusal :=
  if s.busy then .next (reject .busy s) else if argOk then accepted else .next (reject .arg s)

/-! ## Completion of a long command, and the bus error (spec/40_command.md R123, spec/60_exceptions.md R265) -/

/-- `curOp` to NONE and DONE set, at the completion edge (R123). -/
def finishLong (s : State) : State :=
  { s with cmd := { s.cmd with curOp := .none, done := true } }

/-- RTCM back to idle: no segment, counters at rest, both lines released (spec/43_rtc.md R182, R196; log 17). -/
def releaseBus (r : RtcmUnit) : RtcmUnit :=
  { r with rtSeg := none, rtWait := 0, rtCnt := 0, rtErr := none, sclOe := false, sdaOe := false }

/-- The bus-error fields cleared, at acceptance of RTCRD or RTCWR and at a success (spec/43_rtc.md R203, R207, R211). -/
def clearBusError (r : RtcmUnit) : RtcmUnit :=
  { r with busErr := false, busPhase := .write, busCode := .none }

/-- `raise BusFail(phase, code)`: the RTC command ends, the lines are released, the bus-error fields take the phase and the
code, SECCHG is cleared for RTCRD, `curOp` is NONE and DONE is 1 (R265, spec/43_rtc.md R204, R207, R211). -/
def busFail (e : BusError) (s : State) : State :=
  finishLong { s with rtcm :=
    { releaseBus s.rtcm with
      busErr := true
      busPhase := e.phase
      busCode := e.code
      secChg := if s.cmd.curOp = .rtcrd then false else s.rtcm.secChg } }

/-! ## Reset (spec/70_reset_and_hazards.md R290) -/

/-- Every piece of the block's state at its reset value, whatever the cycle holds (R290). The parameters are no state
(R43). -/
def takeReset (s : State) : State := State.resetWith s.cfg

end Sys2Proof.Machine
end

