-- ==== Sys2Proof/Machine/Command.lean ====
section
/-! DEFINITION. NOP (spec/40_command.md R124). -/

namespace Sys2Proof.Machine

/-- NOP: acceptance effects only (R124). -/
def execNop (s : State) : Host.Outcome State Fault Refusal :=
  issue true s (.next (acceptNow s))

end Sys2Proof.Machine
end

