-- ==== Sys2Proof/Machine/Frame.lean ====
section
/-! DEFINITION. The frame-memory commands CLEAR, PSET, PADD, PGET and SETOFF (spec/41_framebuffer.md R131 to R135). All are
instantaneous: every effect lands at the end of the acceptance cycle (spec/40_command.md R122). -/

namespace Sys2Proof.Machine

/-- CLEAR: every byte of the frame memory written with 0, directly, OFFSET unchanged (R131). -/
def execClear (s : State) : Host.Outcome State Fault Refusal :=
  issue true s
    (.next (acceptNow { s with fmem := { s.fmem with fb := s.fmem.fb.clearBelow (fbSize s) } }))

/-- PSET i: the color operand replaces the pixel at slot phys(i) (R132). -/
def execPset (i : Nat) (s : State) : Host.Outcome State Fault Refusal :=
  issue true s (writePixel (acceptNow s) (phys s i) (colorOf s.cmd.arg))

/-- PADD i: the color operand is added, lane by lane and saturating, to the pixel at slot phys(i) (R133). -/
def execPadd (i : Nat) (s : State) : Host.Outcome State Fault Refusal :=
  issue true s
    (bindNext (readPixel s (phys s i)) fun c =>
      writePixel (acceptNow s) (phys s i) (addColor c (colorOf s.cmd.arg)))

/-- PGET p: RESULT takes the color of physical slot p, not through OFFSET; ARG if p ≥ N_PIX (R134). -/
def execPget (p : Nat) (s : State) : Host.Outcome State Fault Refusal :=
  issue (decide (p < s.cfg.nPix)) s
    (bindNext (readPixel s p) fun c =>
      .next (acceptNow { s with fmem := { s.fmem with result := colorWord c } }))

/-- SETOFF o: OFFSET takes o; ARG if o ≥ N_PIX (R135). -/
def execSetoff (o : Nat) (s : State) : Host.Outcome State Fault Refusal :=
  issue (decide (o < s.cfg.nPix)) s
    (.next (acceptNow { s with fmem := { s.fmem with offset := BitVec.ofNat 16 o } }))

end Sys2Proof.Machine
end

