-- ==== Sys2Proof/Machine/Millis.lean ====
section
/-! DEFINITION. RECAL and the millisecond synchronizer MSYNC, cycle by cycle (spec/44_millis.md R230 to R243). -/

namespace Sys2Proof.Machine

/-- RECAL c: with c = 1, CALIB takes SMOOTH of RAWTICKS and CALIB at the start of the cycle and RAWTICKS restarts from 0; the
ticks counted in this cycle are added by `msyncCycle` (R238, R240). With c = 0, acceptance only. -/
def execRecal (c : Bool) (s : State) : Host.Outcome State Fault Refusal :=
  issue true s
    (.next (acceptNow
      (if c then
        { s with msync :=
          { s.msync with calib := smooth s.cfg.smooth s.msync.rawTicks s.msync.calib, rawTicks := 0 } }
      else s)))

/-- How many ticks are counted in this cycle: none while TX runs, else the pending tick and the tick arriving (R233, R235,
R243). -/
def ticksCounted (i : CycleIn) (s : State) : Nat :=
  if s.txAct then 0 else s.msync.tickPend.toNat + i.tick.toNat

/-- The pending latch at the end of this cycle (R234, R235, R243). -/
def tickPendNext (i : CycleIn) (s : State) : Bool :=
  if s.txAct then s.msync.tickPend || (i.tick && decide (s.cfg.tickPendDepth = 1)) else false

/-- One cycle of MSYNC: `s` is the state at the start of the cycle, `t` what the command of this cycle made of it, so that
`t`'s RAWTICKS is 0 if a RECAL 1 was accepted and the start value otherwise (R243). -/
def msyncCycle (i : CycleIn) (s t : State) : State :=
  { t with msync :=
    { t.msync with
      rawTicks := addTicks t.msync.rawTicks (ticksCounted i s)
      tickPend := tickPendNext i s } }

end Sys2Proof.Machine
end

