-- ==== Sys2Proof/Machine/Bus.lean ====
section
/-! DEFINITION. The two-wire bus: line levels, and the segment lists of RTCRD and RTCWR (spec/43_rtc.md R180 to R197, R202,
R206). -/

namespace Sys2Proof.Machine

/-- `scl_i`, by the wired-AND of RTCM's drive and the other agents' (R181). -/
def sclIn (i : CycleIn) (s : State) : Bool := !s.rtcm.sclOe && !i.envSclLow

/-- `sda_i`, by the wired-AND (R181). -/
def sdaIn (i : CycleIn) (s : State) : Bool := !s.rtcm.sdaOe && !i.envSdaLow

/-- What the value of SDA in a segment's last counted cycle is used for. -/
inductive SegEnd where
  /-- No sample (R183). -/
  | nothing
  /-- A 0 means another agent holds SDA low: ARB_LOST (R185, R186, R188). -/
  | arbitrate
  /-- The device's acknowledge; a 1 is a NACK, reported with this code after STOP (R189, R195). -/
  | acknowledge (code : BusCode)
  /-- A received data bit, shifted in most significant first (R190, R193). -/
  | dataBit
  /-- End of the acknowledge RTCM sends for a received byte: the byte is received (R191, R193). The number is the byte's
  place in `rtRx`: 0 seconds, 1 minutes, otherwise hours. -/
  | store (k : Nat)
deriving DecidableEq, Repr

/-- One segment (R183): it fixes both drives for its length. -/
structure Segment where
  /-- A high segment releases SCL and waits for it; a low segment pulls SCL low. -/
  high : Bool
  /-- `sda_oe` during the segment. -/
  sdaLow : Bool
  /-- The wait condition asks for SDA high too: the first segment of START only. -/
  waitSda : Bool
  /-- The bus phase an error in this segment is reported with (R200). -/
  phase : BusPhase
  /-- What is done with the sample at the segment's end. -/
  atEnd : SegEnd
  /-- The byte `rtShift` takes when the segment begins: the first segment of a byte sent (log 12). -/
  load : Option Byte
deriving DecidableEq, Repr

/-- `Low(sda)` (R183). -/
def lowSeg (ph : BusPhase) (sdaLow : Bool) : Segment :=
  { high := false, sdaLow := sdaLow, waitSda := false, phase := ph, atEnd := .nothing, load := none }

/-- `High(sda, sample)` (R183). -/
def highSeg (ph : BusPhase) (sdaLow : Bool) (e : SegEnd) : Segment :=
  { high := true, sdaLow := sdaLow, waitSda := false, phase := ph, atEnd := e, load := none }

/-- The first segment of START: it waits for an idle bus and checks it (R185). -/
def startSeg : Segment :=
  { high := true, sdaLow := false, waitSda := true, phase := .write, atEnd := .arbitrate, load := none }

/-- START, from the idle bus (R185). -/
def startList : List Segment := [startSeg, highSeg .write true .nothing]

/-- Repeated START (R186), always in the read phase (R200). -/
def restartList : List Segment :=
  [lowSeg .read false, highSeg .read false .arbitrate, highSeg .read true .nothing]

/-- STOP (R187). -/
def stopList (ph : BusPhase) : List Segment :=
  [lowSeg ph true, highSeg ph true .nothing, highSeg ph false .nothing]

/-- Sending one bit: SDA released for a 1, which is checked for arbitration, and pulled low for a 0 (R188). -/
def sendBit (ph : BusPhase) (v : Bool) : List Segment :=
  [lowSeg ph (!v), highSeg ph (!v) (if v then .arbitrate else .nothing)]

/-- The bits of a byte from bit `n - 1` down to bit 0, most significant first (R192). -/
def sendBits (ph : BusPhase) (x : Byte) : Nat → List Segment
  | 0 => []
  | n + 1 => sendBit ph (x.getLsbD n) ++ sendBits ph x n

/-- Receiving an acknowledge after a sent byte (R189); a NACK is reported with `code`. -/
def ackList (ph : BusPhase) (code : BusCode) : List Segment :=
  [lowSeg ph false, highSeg ph false (.acknowledge code)]

/-- The list with its first segment marked as the one that loads the byte to send. -/
def loading (x : Byte) : List Segment → List Segment
  | [] => []
  | g :: rest => { g with load := some x } :: rest

/-- `SendByte(x)`: 18 segments (R192). -/
def sendByte (ph : BusPhase) (x : Byte) (nack : BusCode) : List Segment :=
  loading x (sendBits ph x 8) ++ ackList ph nack

/-- Receiving `n` data bits (R190). -/
def recvBits : Nat → List Segment
  | 0 => []
  | n + 1 => lowSeg .read false :: highSeg .read false .dataBit :: recvBits n

/-- `RecvByte(a)` into place `k`: 8 data bits, then the acknowledge RTCM sends, low for ACK and released for NACK (R191,
R193). -/
def recvByte (k : Nat) (ack : Bool) : List Segment :=
  recvBits 8 ++ [lowSeg .read ack, highSeg .read ack (.store k)]

/-- The write address byte `{7'h68, 1'b0}` (R197). -/
def addrW : Byte := 0x68#7 ++ 0#1

/-- The read address byte `{7'h68, 1'b1}` (R197). -/
def addrR : Byte := 0x68#7 ++ 1#1

/-- RTCRD's segments: 116 of them (R202, R208). -/
def readSegs : List Segment :=
  startList ++ sendByte .write addrW .addrNack ++ sendByte .write 0x00 .dataNack ++
    restartList ++ sendByte .read addrR .addrNack ++
    recvByte 0 true ++ recvByte 1 true ++ recvByte 2 false ++ stopList .read

/-- RTCWR's segments for the time it holds: 95 of them (R206, R208). -/
def writeSegs (t : TimeOfDay) : List Segment :=
  startList ++ sendByte .write addrW .addrNack ++ sendByte .write 0x00 .dataNack ++
    sendByte .write (bcd t.sec.toNat) .dataNack ++ sendByte .write (bcd t.min.toNat) .dataNack ++
    sendByte .write (hourByte t.hour.toNat) .dataNack ++ stopList .write

/-- The segment list of an operation; TX and no operation have none. -/
def segmentsOf (op : CurOp) (held : TimeOfDay) : List Segment :=
  match op with
  | .none => []
  | .tx => []
  | .rtcrd => readSegs
  | .rtcwr => writeSegs held

/-- The segment list of the operation executing. -/
def segments (s : State) : List Segment := segmentsOf s.cmd.curOp s.rtcm.held

/-- Where STOP begins: the last three segments of the list. NACK recovery goes there too (R195). -/
def stopIndex (s : State) : Nat := (segments s).length - 3

/-- The wait condition of a high segment: SCL high, and for the first segment of START also SDA high (R183). -/
def waitHolds (i : CycleIn) (s : State) (g : Segment) : Bool := sclIn i s && (!g.waitSda || sdaIn i s)

end Sys2Proof.Machine
end

