-- ==== Sys2Proof/Machine/Rtc.lean ====
section
/-! DEFINITION. RTCRD, RTCWR and the two-wire master RTCM, cycle by cycle (spec/43_rtc.md R183 to R196, R201 to R211). -/

namespace Sys2Proof.Machine

/-- RTCM at the first cycle of a segment: counters at 0, the segment's drives applied, a byte to send loaded (R183). -/
def enterSegment (k : Nat) (g : Segment) (r : RtcmUnit) : RtcmUnit :=
  { r with
    rtSeg := some k
    rtWait := 0
    rtCnt := 0
    rtShift := g.load.getD r.rtShift
    sclOe := !g.high
    sdaOe := g.sdaLow }

/-- RTCM as an accepted RTCRD leaves it: bus-error fields and SECCHG cleared, START about to begin (R201, R211). -/
def startRead (r : RtcmUnit) : RtcmUnit :=
  enterSegment 0 startSeg { clearBusError r with secChg := false }

/-- RTCM as an accepted RTCWR leaves it: bus-error fields cleared, the operands held, START about to begin (R205, R211). -/
def startWrite (h m sec : Nat) (r : RtcmUnit) : RtcmUnit :=
  enterSegment 0 startSeg
    { clearBusError r with
      held := { hour := BitVec.ofNat 5 h, min := BitVec.ofNat 6 m, sec := BitVec.ofNat 6 sec } }

/-- RTCRD: the sequence of R202 begins with the next cycle (R201). -/
def execRtcrd (s : State) : Host.Outcome State Fault Refusal :=
  issue true s (.next (acceptLong .rtcrd { s with rtcm := startRead s.rtcm }))

/-- RTCWR h, m, s: ARG if out of range; the sequence of R206 begins with the next cycle (R205). -/
def execRtcwr (h m sec : Nat) (s : State) : Host.Outcome State Fault Refusal :=
  issue (timeInRange h m sec) s (.next (acceptLong .rtcwr { s with rtcm := startWrite h m sec s.rtcm }))

/-- RTCRAW takes the three received bytes (R203, R204). -/
def storeRaw (t : State) : State := { t with rtcm := { t.rtcm with rtcRaw := rxRaw t.rtcm.rtRx } }

/-- RTCRD succeeds (R203): SECCHG compares the new second with TIME before this edge. -/
def readSuccess (t : State) : State :=
  finishLong { t with rtcm :=
    { clearBusError (releaseBus t.rtcm) with
      secChg := decide (bcdDec t.rtcm.rtRx.sec ≠ t.rtcm.time.sec.toNat)
      time := rxTime t.rtcm.rtRx
      rtcRaw := rxRaw t.rtcm.rtRx } }

/-- RTCWR succeeds (R207): TIME, RTCRAW and SECCHG unchanged. -/
def writeSuccess (t : State) : State :=
  finishLong { t with rtcm := clearBusError (releaseBus t.rtcm) }

/-! While an RTC command runs, the cycle's other writes touch neither RTCM nor `curOp` (spec/40_command.md R126), so what
follows reads both from the state being written. -/

/-- The end of STOP's last cycle: a NACK found earlier is reported (R195); RTCRD checks its bytes and succeeds or fails with
RANGE (R202, R203, R204); RTCWR succeeds (R207). -/
def sequenceEnd (t : State) : State :=
  match t.rtcm.rtErr with
  | some e => busFail e t
  | none =>
    if t.cmd.curOp = .rtcrd then
      if rxValid t.rtcm.rtRx then readSuccess t
      else busFail { phase := .read, code := .range } (storeRaw t)
    else writeSuccess t

/-- Go on with segment `k`, or end the sequence after the last one. -/
def goSegment (k : Nat) (t : State) : State :=
  match (segments t)[k]? with
  | some g => { t with rtcm := enterSegment k g t.rtcm }
  | none => sequenceEnd t

/-- Put a received byte at its place in `rtRx` (R202). -/
def storeByte (k : Nat) (x : Byte) (r : RxBytes) : RxBytes :=
  match k with
  | 0 => { r with sec := x }
  | 1 => { r with min := x }
  | _ => { r with hour := x }

/-- The end of segment `k`'s last counted cycle, with SDA's value in it (R183, R185 to R195). -/
def segmentEnd (k : Nat) (g : Segment) (sample : Bool) (t : State) : State :=
  match g.atEnd with
  | .nothing => goSegment (k + 1) t
  | .arbitrate =>
    if sample then goSegment (k + 1) t else busFail { phase := g.phase, code := .arbLost } t
  | .acknowledge code =>
    if sample then
      goSegment (stopIndex t) { t with rtcm := { t.rtcm with rtErr := some { phase := g.phase, code := code } } }
    else goSegment (k + 1) t
  | .dataBit =>
    goSegment (k + 1)
      { t with rtcm := { t.rtcm with rtShift := (t.rtcm.rtShift <<< 1) ||| (BitVec.ofBool sample).setWidth 8 } }
  | .store j =>
    goSegment (k + 1) { t with rtcm := { t.rtcm with rtRx := storeByte j t.rtcm.rtShift t.rtcm.rtRx } }

/-- A high segment has waited STRETCH_MAX cycles (R184): TIMEOUT, or the NACK found earlier if STOP is its recovery (R195).
RTCRAW takes the bytes if all three were received, in the final STOP of RTCRD (R204). -/
def stretchTimeout (k : Nat) (g : Segment) (t : State) : State :=
  match t.rtcm.rtErr with
  | some e => busFail e t
  | none =>
    busFail { phase := g.phase, code := .timeout }
      (if t.cmd.curOp = .rtcrd ∧ stopIndex t ≤ k then storeRaw t else t)

/-- Whether this cycle only waits: a high segment that counts nothing yet and whose wait condition does not hold (R183). -/
def isWaitCycle (i : CycleIn) (g : Segment) (s : State) : Bool :=
  g.high && decide (s.rtcm.rtCnt = 0) && !waitHolds i s g

/-- One cycle of segment `k`: a wait cycle (R184), a counted cycle, or the last counted cycle (R183). -/
def segmentCycle (i : CycleIn) (k : Nat) (g : Segment) (s t : State) : State :=
  if isWaitCycle i g s then
    if s.rtcm.rtWait + 1 < s.cfg.stretchMax then { t with rtcm := { t.rtcm with rtWait := s.rtcm.rtWait + 1 } }
    else stretchTimeout k g t
  else if s.rtcm.rtCnt + 1 < s.cfg.i2cHCyc then { t with rtcm := { t.rtcm with rtCnt := s.rtcm.rtCnt + 1 } }
  else segmentEnd k g (sdaIn i s) t

/-- One cycle of RTCM: `s` is the state at the start of the cycle, `t` what the cycle's other writes make of it. Idle, it
does nothing (R182); a segment number outside the operation's list, which no rule reaches, does nothing either (log 22). -/
def rtcmCycle (i : CycleIn) (s t : State) : State :=
  match s.rtcm.rtSeg with
  | none => t
  | some k =>
    match (segments s)[k]? with
    | none => t
    | some g => segmentCycle i k g s t

end Sys2Proof.Machine
end

