-- ==== Sys2Proof/Machine/Transmit.lean ====
section
/-! DEFINITION. TX and the LED transmitter LTX, cycle by cycle (spec/42_transmit.md R150 to R158). -/

namespace Sys2Proof.Machine

/-- How many bits a frame has: 24·N_PIX (R151). -/
def frameBits (p : Params) : Nat := 24 * p.nPix

/-- `FrameBit(j)` of a frame memory: byte `j div 8`, bit `7 - (j mod 8)` (R151). -/
def frameBitOf (fb : Memory) (j : Nat) : Bool := (fb.read (j / 8)).getLsbD (7 - j % 8)

/-- `FrameBit(j) = MemRead(j div 8, 1)[7 - (j mod 8)]` (R151). -/
def frameBit (s : State) (j : Nat) : Host.Outcome Bool Fault Refusal :=
  bindNext (memRead s (j / 8)) fun b => .next (b.getLsbD (7 - j % 8))

/-- `TH(b)`: T0H_CYC for a '0' bit, T1H_CYC for a '1' bit (R152). -/
def highTime (p : Params) (b : Bool) : Nat := if b then p.t1hCyc else p.t0hCyc

/-- The level of `led_o` in the cycle that starts with this state: high in the first TH cycles of a bit, low otherwise
(R152, R155, R158). -/
def ledLevel (s : State) : Host.Outcome Bool Fault Refusal :=
  if s.ltx.txPhase = .bits then
    bindNext (frameBit s s.ltx.txBit) fun b => .next (decide (s.ltx.txCyc < highTime s.cfg b))
  else .next false

/-- `lowRun_next`: consecutive low cycles counted to the end of this cycle, saturating at LATCH_CYC (R156). -/
def lowRunNext (s : State) : Nat :=
  if s.ltx.ledO then 0 else min s.cfg.latchCyc (s.ltx.lowRun + 1)

/-- Whether this cycle is the last latch cycle of a TX (R154, R157). -/
def txLastCycle (s : State) : Bool :=
  decide (s.ltx.txPhase = .latch) && decide (s.cfg.latchCyc ≤ s.ltx.txCyc + 1)

/-- TX: LTX starts its frame at the acceptance edge, in the BIT phase if the line has been low for LATCH_CYC cycles and in
the WAIT phase otherwise (R150, R153, R158). -/
def startFrame (s : State) : LtxUnit :=
  { s.ltx with
    txPhase := if s.cfg.latchCyc ≤ lowRunNext s then .bits else .wait
    txBit := 0
    txCyc := 0 }

/-- TX: transmit the frame memory (R150). The bits and the latch gap follow, one cycle at a time, in `ltxNext`. -/
def execTx (s : State) : Host.Outcome State Fault Refusal :=
  issue true s (.next (acceptLong .tx { s with ltx := startFrame s }))

/-- LTX's phase, bit and cycle at the end of a cycle in which it is not idle, and `lowRun` in every cycle (R156, R158). `u`
is LTX as the command of this cycle left it: a TX accepted in this cycle has just started its frame. -/
def ltxNext (s : State) (u : LtxUnit) : LtxUnit :=
  match s.ltx.txPhase with
  | .idle => { u with lowRun := lowRunNext s }
  | .wait =>
    if s.cfg.latchCyc ≤ lowRunNext s then { u with lowRun := lowRunNext s, txPhase := .bits, txBit := 0, txCyc := 0 }
    else { u with lowRun := lowRunNext s }
  | .bits =>
    if s.ltx.txCyc + 1 < s.cfg.tbitCyc then { u with lowRun := lowRunNext s, txCyc := s.ltx.txCyc + 1 }
    else if s.ltx.txBit + 1 < frameBits s.cfg then
      { u with lowRun := lowRunNext s, txBit := s.ltx.txBit + 1, txCyc := 0 }
    else { u with lowRun := lowRunNext s, txPhase := .latch, txCyc := 0 }
  | .latch =>
    if s.ltx.txCyc + 1 < s.cfg.latchCyc then { u with lowRun := lowRunNext s, txCyc := s.ltx.txCyc + 1 }
    else { u with lowRun := lowRunNext s, txPhase := .idle, txCyc := 0 }

/-- One cycle of LTX: `s` is the state at the start of the cycle, `t` what the cycle's other writes make of it (R158). In
the last latch cycle the TX completes (R157). -/
def ltxCycle (s t : State) : State :=
  let t' := { t with ltx := ltxNext s t.ltx }
  if txLastCycle s then finishLong t' else t'

/-- `led_o` of the next cycle, from the state the cycle ends with (R158; log 15). -/
def driveLed (t : State) : Host.Outcome State Fault Refusal :=
  bindNext (ledLevel t) fun level => .next { t with ltx := { t.ltx with ledO := level } }

end Sys2Proof.Machine
end

