-- ==== Sys2Proof/Machine/Dispatch.lean ====
section
/-! DEFINITION. What a decoded command written to CMD does, one arm per row of the opcode map (spec/30_encoding.md R97). -/

namespace Sys2Proof.Machine

def exec (i : Instr) (s : State) : Host.Outcome State Fault Refusal :=
  match i with
  | .nop => Sys2Proof.Machine.execNop s
  | .tx => Sys2Proof.Machine.execTx s
  | .clear => Sys2Proof.Machine.execClear s
  | .pset idx => Sys2Proof.Machine.execPset idx s
  | .padd idx => Sys2Proof.Machine.execPadd idx s
  | .pget p => Sys2Proof.Machine.execPget p s
  | .setoff o => Sys2Proof.Machine.execSetoff o s
  | .rtcrd => Sys2Proof.Machine.execRtcrd s
  | .rtcwr h m sec => Sys2Proof.Machine.execRtcwr h m sec s
  | .recal c => Sys2Proof.Machine.execRecal c s

end Sys2Proof.Machine
end

