-- ==== Sys2Proof/Machine/Registers.lean ====
section
/-! DEFINITION. The host register map (spec/10_state.md R22, spec/20_memory.md R60, R61): reads, and the names and statements
of the host's assembler syntax (spec/30_encoding.md R101 to R103). -/

namespace Sys2Proof.Machine

/-- `RegRead(a)`: unmapped indices and CMD read 0 (R61). A read changes nothing (R71). -/
def regRead (s : State) (a : BitVec 4) : Word :=
  match a.toNat with
  | 0 => 0
  | 1 => s.cmd.arg
  | 2 => statusWord s
  | 3 => s.fmem.result
  | 4 => timeWord s.rtcm.time
  | 5 => s.rtcm.rtcRaw
  | 6 => (BitVec.ofNat 10 (elapsedMs s.msync.rawTicks s.msync.calib)).setWidth 32
  | 7 => s.msync.rawTicks
  | 8 => s.msync.calib
  | 9 => s.fmem.offset.setWidth 32
  | 10 => BitVec.ofNat 32 s.cfg.nPix
  | _ => 0

/-- `h_rdata` in a cycle: the register read, and 0 without an access or with `h_req` = 3 (R60). In a write cycle no rule gives
it a value (R39, R60): DESIGN CHOICE, 0, unsafe (log 29). -/
def readData (i : CycleIn) (s : State) : Word := if i.hReq = 1 then regRead s i.hAddr else 0

/-- The host registers by name (R22). -/
inductive HostReg where
  | cmd | arg | status | result | time | rtcraw | elapsed | rawticks | calib | offset | info
deriving DecidableEq, Repr

/-- The word index of a register (R61, R103). -/
def regIndex : HostReg → BitVec 4
  | .cmd => 0
  | .arg => 1
  | .status => 2
  | .result => 3
  | .time => 4
  | .rtcraw => 5
  | .elapsed => 6
  | .rawticks => 7
  | .calib => 8
  | .offset => 9
  | .info => 10

end Sys2Proof.Machine
end

