-- ==== Sys2Proof/Machine/HostPort.lean ====
section
/-! DEFINITION. The host's side of the interface: the accesses the assembler statements of spec/30_encoding.md R101 stand
for, the straight-line pseudo-instructions of R102, and the inputs of one cycle. WAIT's loop is host control flow; its one
access and its test are here (log 26). -/

namespace Sys2Proof.Machine

/-- A cycle in which nothing happens outside the block. -/
def quietCycle : CycleIn :=
  { rst := false, hReq := 0, hAddr := 0, hWdata := 0, tick := false, envSclLow := false, envSdaLow := false }

/-- The inputs of a cycle with its host access replaced by a write, and no reset (R101: `h_req` = write). -/
def withWrite (i : CycleIn) (a : BitVec 4) (v : Word) : CycleIn :=
  { i with rst := false, hReq := 2, hAddr := a, hWdata := v }

/-- The inputs of a cycle with its host access replaced by a read, and no reset (R101: `h_req` = read). -/
def withRead (i : CycleIn) (a : BitVec 4) : CycleIn :=
  { i with rst := false, hReq := 1, hAddr := a, hWdata := 0 }

/-- A statement of a host program, one or more cycles of accesses (R101, R102). -/
inductive HostStmt where
  /-- `wr REG, v`. -/
  | wr (r : HostReg) (v : Word)
  /-- `rd REG -> name`. -/
  | rd (r : HostReg)
  /-- A command mnemonic with its operands. -/
  | command (i : Instr)
  /-- `LDARG rgb`. -/
  | ldarg (rgb : Word)
  /-- `PSETC i, rgb`. -/
  | psetc (i : Nat) (rgb : Word)
  /-- `PADDC i, rgb`. -/
  | paddc (i : Nat) (rgb : Word)
  /-- `IDLE n`. -/
  | idle (n : Nat)
  /-- One access of WAIT's loop: `rd STATUS -> s`. -/
  | waitRead
deriving DecidableEq, Repr

/-- The inputs a statement gives, in an otherwise quiet environment: one entry a cycle (R101, R102). -/
def stmtCycles : HostStmt → List CycleIn
  | .wr r v => [withWrite quietCycle (regIndex r) v]
  | .rd r => [withRead quietCycle (regIndex r)]
  | .command i => [withWrite quietCycle 0 (encode i)]
  | .ldarg rgb => [withWrite quietCycle 1 rgb]
  | .psetc i rgb => [withWrite quietCycle 1 rgb, withWrite quietCycle 0 (encode (.pset i))]
  | .paddc i rgb => [withWrite quietCycle 1 rgb, withWrite quietCycle 0 (encode (.padd i))]
  | .idle n => List.replicate n quietCycle
  | .waitRead => [withRead quietCycle (regIndex .status)]

/-- WAIT repeats while bit 0 of the STATUS word it read is 1 (R102). -/
def waitAgain (status : Word) : Bool := status.getLsbD 0

end Sys2Proof.Machine
end

