-- ==== Sys2Proof/Machine/Cycle.lean ====
section
/-! DEFINITION. One cycle of the block: the host's access, the engines and the synchronizer, all reading the state at the
start of the cycle and writing at its end (spec/00_scope.md R10, R11; spec/60_exceptions.md R270). -/

namespace Sys2Proof.Machine

/-- `IssueCommand(w)`: BUSY before the decode, ILLEGAL for a word of no row, else the command's own checks and rule
(spec/40_command.md R120). Every meaning begins with the BUSY check too, which this one makes before ILLEGAL. -/
def issueCommand (w : Word) (s : State) : Host.Outcome State Fault Refusal :=
  match decode w with
  | .ok i => exec i s
  | .error _ => .next (reject (if s.busy then .busy else .illegal) s)

/-- `RegWrite(a, v)`: CMD issues a command, ARG stores, every other index has no effect (spec/20_memory.md R61). -/
def regWrite (a : BitVec 4) (v : Word) (s : State) : Host.Outcome State Fault Refusal :=
  match a.toNat with
  | 0 => issueCommand v s
  | 1 => .next { s with cmd := { s.cmd with arg := v } }
  | _ => .next s

/-- The writes of the host's access in this cycle; a read writes nothing, `h_req` = 3 is no access (R60, R71). -/
def hostAccess (i : CycleIn) (s : State) : Host.Outcome State Fault Refusal :=
  if i.hReq = 2 then regWrite i.hAddr i.hWdata s else .next s

/-- The inputs of the current cycle: the oldest entry of the queue, or a free draw where there is none (log 2, log 3). -/
def currentInput (s : State) : CycleIn :=
  match s.inputs with
  | [] => Config.drawnInput s.cycle
  | i :: _ => i

/-- The model's bookkeeping at the end of a cycle: what `h_rdata` carried, the cycle's number, the inputs used up. -/
def closeCycle (i : CycleIn) (s t : State) : State :=
  { t with hRdata := readData i s, cycle := s.cycle + 1, inputs := s.inputs.tail }

/-- The clock edge of a cycle that is no reset cycle: `s` at its start, `t` with the writes of the host's access; LTX, RTCM
and MSYNC write their units, then `led_o` of the next cycle follows from what they wrote. -/
def clockEdge (i : CycleIn) (s t : State) : Host.Outcome State Fault Refusal :=
  bindNext (driveLed (msyncCycle i s (rtcmCycle i s (ltxCycle s t)))) fun u => .next (closeCycle i s u)

/-- One cycle with the inputs given: reset overrides everything (spec/70_reset_and_hazards.md R290), else the host's access
and the clock edge. -/
def runCycle (i : CycleIn) (s : State) : Host.Outcome State Fault Refusal :=
  if i.rst then .next (closeCycle i s (takeReset s)) else bindNext (hostAccess i s) fun t => clockEdge i s t

/-- The queue of inputs with its first cycle made a write of `w` to CMD; a quiet cycle stands in for an empty queue's. -/
def queueCommand (w : Word) : List CycleIn → List CycleIn
  | [] => [withWrite quietCycle 0 w]
  | i :: rest => withWrite i 0 w :: rest

end Sys2Proof.Machine
end

