-- ==== Sys2Proof/Machine/Step.lean ====
section
/-! DEFINITION. The step of the machine is one cycle of `clk` (spec/00_scope.md R11), with the inputs the state's queue
gives for it; and where the host's test places a command. -/

namespace Sys2Proof.Machine

/-- One cycle. -/
def step (s : State) : Host.Outcome State Fault Refusal := runCycle (currentInput s) s

/-- The block fetches nothing (spec/10_state.md R21): the next command is what the host writes to CMD in this cycle. The
state with that write as the access of the current cycle (log 4). -/
def State.withFetchWord (s : State) (nbits w : Nat) : State :=
  { s with inputs := queueCommand (BitVec.ofNat 32 (w % 2 ^ nbits)) s.inputs }

end Sys2Proof.Machine
end

