-- ==== Sys2Proof/Safety.lean ====
section
/-! DEFINITION. What counts as a good state and a reachable one, and the vocabulary statements about whole commands use:
durations, and what an environment does during a command. -/

namespace Sys2Proof.Machine

/-! ## The invariant -/

/-- The command processor: REJ and REJCODE go together (spec/10_state.md R42), and DONE is 0 while a long command runs
(R25). -/
abbrev CmdOk (s : State) : Prop :=
  (s.cmd.rej = false ↔ s.cmd.rejCode = .none) ∧ (s.cmd.curOp ≠ .none → s.cmd.done = false)

/-- FMEM: the memory in canonical form and inside its 3·N_PIX bytes, OFFSET < N_PIX (R32, R42), RESULT[31:24] = 0 (R26). -/
abbrev FmemOk (s : State) : Prop :=
  s.fmem.fb.wf ∧ (∀ c ∈ s.fmem.fb.cells, c.1 < fbSize s) ∧ s.fmem.offset.toNat < s.cfg.nPix ∧
    s.fmem.result.toNat < 2 ^ 24

/-- The level `led_o` has by the rules of the waveform (spec/42_transmit.md R152, R155, R158). -/
def ledPattern (s : State) : Bool :=
  decide (s.ltx.txPhase = .bits) &&
    decide (s.ltx.txCyc < highTime s.cfg (frameBitOf s.fmem.fb s.ltx.txBit))

/-- LTX: busy exactly for a TX, its counters in the ranges of R35, the line low for at least as long as the latch gap has
run, and `led_o` as the waveform says. -/
abbrev LtxOk (s : State) : Prop :=
  (s.ltx.txPhase = .idle ↔ s.cmd.curOp ≠ .tx) ∧
    s.ltx.txBit < frameBits s.cfg ∧
    s.ltx.lowRun ≤ s.cfg.latchCyc ∧
    (s.ltx.txPhase = .idle → s.ltx.txCyc = 0) ∧
    (s.ltx.txPhase = .wait → s.ltx.txBit = 0 ∧ s.ltx.txCyc = 0 ∧ s.ltx.lowRun < s.cfg.latchCyc) ∧
    (s.ltx.txPhase = .bits → s.ltx.txCyc < s.cfg.tbitCyc) ∧
    (s.ltx.txPhase = .latch → s.ltx.txCyc < s.cfg.latchCyc ∧ s.ltx.txCyc ≤ s.ltx.lowRun) ∧
    s.ltx.ledO = ledPattern s

/-- Whether the operation is one RTCM runs. -/
def isRtcOp (op : CurOp) : Bool := decide (op = .rtcrd) || decide (op = .rtcwr)

/-- RTCM at rest: both lines released (spec/43_rtc.md R182), no error being recovered, counters at 0. -/
abbrev RtcmResting (r : RtcmUnit) : Prop :=
  r.sclOe = false ∧ r.sdaOe = false ∧ r.rtErr = none ∧ r.rtCnt = 0 ∧ r.rtWait = 0

/-- RTCM in segment `k`: the drives are the segment's (R183), a low segment does not wait, and a NACK is recovered only in
STOP (R195). -/
abbrev SegmentOk (s : State) (k : Nat) (g : Segment) : Prop :=
  s.rtcm.sclOe = !g.high ∧ s.rtcm.sdaOe = g.sdaLow ∧ (g.high = false → s.rtcm.rtWait = 0) ∧
    (s.rtcm.rtErr ≠ none → stopIndex s ≤ k)

/-- RTCM's segment, if it has one, is in the current operation's list and is as `SegmentOk` says. -/
def segmentOk (s : State) : Bool :=
  match s.rtcm.rtSeg with
  | none => true
  | some k =>
    match (segments s)[k]? with
    | none => false
    | some g => decide (SegmentOk s k g)

/-- The segment RTCM is in, if it is in one of the current operation's list. -/
def currentSegment (s : State) : Option Segment := s.rtcm.rtSeg.bind fun k => (segments s)[k]?

/-- A time in range: hours to 23, minutes and seconds to 59 (R42). -/
abbrev TimeOfDay.InRange (t : TimeOfDay) : Prop := t.hour.toNat ≤ 23 ∧ t.min.toNat ≤ 59 ∧ t.sec.toNat ≤ 59

/-- The bus-error fields go together (R42, spec/60_exceptions.md R264). -/
abbrev BusFieldsOk (r : RtcmUnit) : Prop :=
  (r.busErr = false → r.busPhase = .write ∧ r.busCode = .none) ∧ (r.busErr = true → r.busCode ≠ .none)

/-- The error a running recovery will report is a NACK (R195). -/
def pendingErrorOk (r : RtcmUnit) : Bool :=
  match r.rtErr with
  | none => true
  | some e => decide (e.code = .addrNack) || decide (e.code = .dataNack)

/-- RTCM: in a segment exactly for an RTC command, counters in the ranges of R36, TIME and the held operands in range,
RTCRAW[31:24] = 0, and the STATUS fields as acceptance left them while a command runs (R201, R205, R211). -/
abbrev RtcmOk (s : State) : Prop :=
  (isRtcOp s.cmd.curOp = true ↔ s.rtcm.rtSeg ≠ none) ∧
    (s.rtcm.rtSeg = none → RtcmResting s.rtcm) ∧
    segmentOk s = true ∧
    s.rtcm.rtCnt < s.cfg.i2cHCyc ∧ s.rtcm.rtWait < s.cfg.stretchMax ∧
    s.rtcm.time.InRange ∧ s.rtcm.held.InRange ∧ s.rtcm.rtcRaw.toNat < 2 ^ 24 ∧
    BusFieldsOk s.rtcm ∧ pendingErrorOk s.rtcm = true ∧
    (isRtcOp s.cmd.curOp = true → s.rtcm.busErr = false) ∧ (s.cmd.curOp = .rtcrd → s.rtcm.secChg = false)

/-- MSYNC: CALIB is never 0 (spec/44_millis.md R242), and no tick is held when the depth is 0 (R234). -/
abbrev MsyncOk (s : State) : Prop :=
  s.msync.calib ≠ 0 ∧ (s.cfg.tickPendDepth = 0 → s.msync.tickPend = false)

/-- The invariant of the block: legal parameters (spec/00_scope.md R7) and every unit as the rules leave it. -/
structure State.Inv (s : State) : Prop where
  /-- The parameters are legal (R7). -/
  cfgOk : s.cfg.Ok
  /-- The command processor. -/
  cmdOk : CmdOk s
  /-- The frame memory. -/
  fmemOk : FmemOk s
  /-- The LED transmitter. -/
  ltxOk : LtxOk s
  /-- The two-wire master. -/
  rtcmOk : RtcmOk s
  /-- The millisecond synchronizer. -/
  msyncOk : MsyncOk s

/-! ## Reachable states -/

/-- The states of an instance with legal parameters from its reset on, with any inputs (spec/70_reset_and_hazards.md R290,
R295). -/
inductive Reachable : State → Prop where
  /-- Right after reset, with any inputs to come. -/
  | reset (p : Params) (n : Nat) (ins : List CycleIn) (d : Word) (h : p.Ok) :
      Reachable { State.resetWith p with cycle := n, inputs := ins, hRdata := d }
  /-- After one more cycle. -/
  | step (s t : State) (hs : Reachable s) (h : step s = .next t) : Reachable t

/-! ## Whole commands -/

/-- The cycle is no reset cycle and writes `w` to CMD. -/
abbrev WritesCmd (i : CycleIn) (w : Word) : Prop := i.rst = false ∧ i.hReq = 2 ∧ i.hAddr = 0 ∧ i.hWdata = w

/-- The first `n` inputs are there and none is a reset cycle. -/
abbrev NoResetFor (n : Nat) (l : List CycleIn) : Prop := n ≤ l.length ∧ ∀ i ∈ l.take n, i.rst = false

/-- `max(0, LATCH_CYC - L0)`: the WAIT cycles of a TX accepted in this cycle (spec/42_transmit.md R153). -/
def txWaitCycles (s : State) : Nat := s.cfg.latchCyc - lowRunNext s

/-- How many cycles a TX accepted in this cycle keeps BUSY at 1 (R159). -/
def txBusyCycles (s : State) : Nat :=
  txWaitCycles s + frameBits s.cfg * s.cfg.tbitCyc + s.cfg.latchCyc

/-- During the first `h * script.length` cycles of the inputs: no reset, no agent holds SCL low, and the other agents pull
SDA low exactly in the segments the script marks, `h` cycles a segment. The host and the tick source do as they like. -/
abbrev FollowsScript (h : Nat) (script : List Bool) (l : List CycleIn) : Prop :=
  h * script.length ≤ l.length ∧
    ∀ m < h * script.length, ∀ i ∈ l[m]?,
      i.rst = false ∧ i.envSclLow = false ∧ script[m / h]? = some i.envSdaLow

/-- The device during a byte RTCM sends: silent for the 8 bits, then ACK (spec/43_rtc.md R189, R192). -/
def ackScript : List Bool := List.replicate 16 false ++ [true, true]

/-- The device during a byte it sends: SDA low for each 0 bit, most significant first, then released for RTCM's acknowledge
(R190, R193). -/
def dataScript (x : Byte) : List Bool :=
  ([7, 6, 5, 4, 3, 2, 1, 0].flatMap fun n => [!x.getLsbD n, !x.getLsbD n]) ++ [false, false]

/-- A device that acknowledges every byte and answers an RTCRD with the three bytes (R202). -/
def readScript (x : RxBytes) : List Bool :=
  [false, false] ++ ackScript ++ ackScript ++ [false, false, false] ++ ackScript ++
    dataScript x.sec ++ dataScript x.min ++ dataScript x.hour ++ [false, false, false]

/-- A device that acknowledges every byte of an RTCWR (R206). -/
def writeScript : List Bool :=
  [false, false] ++ ackScript ++ ackScript ++ ackScript ++ ackScript ++ ackScript ++ [false, false, false]

/-- The five bytes of an RTCWR on the wire (R206). -/
def writtenBytes (h m sec : Nat) : List Byte := [0xD0, 0x00, bcd sec, bcd m, hourByte h]

/-! ## The vocabulary of the rules about commands -/

/-- The long command an instruction is, or NONE (spec/40_command.md R122). -/
def longOp : Instr → CurOp
  | .nop => .none
  | .tx => .tx
  | .clear => .none
  | .pset _ => .none
  | .padd _ => .none
  | .pget _ => .none
  | .setoff _ => .none
  | .rtcrd => .rtcrd
  | .rtcwr _ _ _ => .rtcwr
  | .recal _ => .none

/-- The table of `ArgOk` (spec/40_command.md R127). -/
def argOk (p : Params) : Instr → Bool
  | .nop => true
  | .tx => true
  | .clear => true
  | .pset _ => true
  | .padd _ => true
  | .pget i => decide (i < p.nPix)
  | .setoff o => decide (o < p.nPix)
  | .rtcrd => true
  | .rtcwr h m s => decide (h ≤ 23 ∧ m ≤ 59 ∧ s ≤ 59)
  | .recal _ => true

/-- The bits an opcode's format marks "reserved, must be 0" (spec/30_encoding.md R91 to R94). -/
def reservedBits (op : Nat) : Word :=
  if op = 3 ∨ op = 4 ∨ op = 5 ∨ op = 6 then 0x0FFF0000
  else if op = 8 then 0x0FE0C0C0
  else if op = 9 then 0x0FFFFFFE
  else 0x0FFFFFFF

/-- Words with this opcode: the instruction given, if no reserved bit is 1, and ILLEGAL otherwise. -/
abbrev DecodesAs (op : Nat) (instr : Word → Instr) : Prop :=
  ∀ w : Word, opcodeField w = op →
    decode w = if w &&& reservedBits op = 0 then .ok (instr w) else .error .reservedBits

/-- The code a write of `w` to CMD is rejected with, if it is: the first of BUSY, ILLEGAL and ARG that applies
(spec/40_command.md R120, spec/60_exceptions.md R262). -/
def rejection (s : State) (w : Word) : Option RejCode :=
  if s.cmd.curOp ≠ .none then some .busy
  else
    match decode w with
    | .error _ => some .illegal
    | .ok c => if argOk s.cfg c then none else some .arg

/-- The command processor after a rejection: REJ and REJCODE only (spec/60_exceptions.md R260). -/
abbrev CmdUnit.rejected (u : CmdUnit) (code : RejCode) : CmdUnit := { u with rej := true, rejCode := code }

/-- The command processor after acceptance: REJ and REJCODE cleared, and for an instantaneous command DONE set
(spec/40_command.md R121). -/
abbrev CmdUnit.completed (u : CmdUnit) : CmdUnit := { u with rej := false, rejCode := .none, done := true }

/-- The command processor after acceptance of a long command: REJ, REJCODE and DONE cleared, `curOp` set (R121, R122). -/
abbrev CmdUnit.started (u : CmdUnit) (op : CurOp) : CmdUnit :=
  { u with rej := false, rejCode := .none, done := false, curOp := op }

/-- The command processor after the completion edge of a long command (spec/40_command.md R123). -/
abbrev CmdUnit.finished (u : CmdUnit) : CmdUnit := { u with curOp := .none, done := true }

/-- The same cycle without a host access. -/
def noAccess (i : CycleIn) : CycleIn := { i with hReq := 0, hAddr := 0, hWdata := 0 }

/-- An outcome with its next state changed; a stop stays that stop. -/
def mapNext (f : State → State) (o : Host.Outcome State Fault Refusal) : Host.Outcome State Fault Refusal :=
  bindNext o fun t => .next (f t)

/-- The write of this cycle is a command that is accepted. -/
abbrev Accepts (i : CycleIn) (s : State) (c : Instr) : Prop :=
  i.rst = false ∧ i.hReq = 2 ∧ i.hAddr = 0 ∧ s.cmd.curOp = .none ∧ decode i.hWdata = .ok c ∧ argOk s.cfg c = true

/-- How many of these cycles carry a tick. -/
def ticksIn (l : List CycleIn) : Nat := l.countP fun i => i.tick

/-- `n` cycles lead from one state to another. -/
abbrev RunsTo (n : Nat) (s t : State) : Prop := Host.Core.run Sys2Proof.core n s = .next t

/-- RTCM is in the last counted cycle of segment `k`, which is `g` (spec/43_rtc.md R183). -/
abbrev InLastCycle (i : CycleIn) (s : State) (k : Nat) (g : Segment) : Prop :=
  s.rtcm.rtSeg = some k ∧ (segments s)[k]? = some g ∧ isWaitCycle i g s = false ∧ s.rtcm.rtCnt + 1 = s.cfg.i2cHCyc

/-- RTCM is in a wait cycle of segment `k`, which is `g` (spec/43_rtc.md R183). -/
abbrev InWaitCycle (i : CycleIn) (s : State) (k : Nat) (g : Segment) : Prop :=
  s.rtcm.rtSeg = some k ∧ (segments s)[k]? = some g ∧ isWaitCycle i g s = true

/-- An RTC command ended with a bus error: the fields of spec/60_exceptions.md R265 and both lines released. -/
abbrev EndsWithError (s t : State) (e : BusError) : Prop :=
  t.rtcm.busErr = true ∧ t.rtcm.busPhase = e.phase ∧ t.rtcm.busCode = e.code ∧
    t.rtcm.sclOe = false ∧ t.rtcm.sdaOe = false ∧ t.rtcm.rtSeg = none ∧ t.cmd.curOp = .none ∧ t.cmd.done = true ∧
    t.rtcm.time = s.rtcm.time ∧ t.rtcm.secChg = if s.cmd.curOp = .rtcrd then false else s.rtcm.secChg

/-- The next cycle is the first of segment `k` of the same command, with that segment's drives and its counters at 0
(spec/43_rtc.md R183). -/
abbrev EntersSegment (s t : State) (k : Nat) : Prop :=
  ∃ g, (segments s)[k]? = some g ∧ t.rtcm.rtSeg = some k ∧ t.rtcm.rtCnt = 0 ∧ t.rtcm.rtWait = 0 ∧
    t.rtcm.sclOe = !g.high ∧ t.rtcm.sdaOe = g.sdaLow ∧ t.cmd.curOp = s.cmd.curOp

/-! ## The bus sequences as the rules write them, segment by segment -/

/-- What the rules say of one segment: the drives, the phase an error in it is reported with, what its sample is for, and
whether its wait condition asks for SDA too. -/
structure WireStep where
  /-- RTCM pulls SCL low. -/
  sclLow : Bool
  /-- RTCM pulls SDA low. -/
  sdaLow : Bool
  /-- The bus phase (spec/43_rtc.md R200). -/
  phase : BusPhase
  /-- The use of the sample. -/
  atEnd : SegEnd
  /-- The wait condition is SCL and SDA high, not SCL high alone (R183). -/
  waitSda : Bool
deriving DecidableEq, Repr

/-- What a segment of the model's lists says of the same things. -/
def wireStepOf (g : Segment) : WireStep :=
  { sclLow := !g.high, sdaLow := g.sdaLow, phase := g.phase, atEnd := g.atEnd, waitSda := g.waitSda }

/-- `Low(sda)` (R183). -/
def wireLow (ph : BusPhase) (sdaLow : Bool) : WireStep :=
  { sclLow := true, sdaLow := sdaLow, phase := ph, atEnd := .nothing, waitSda := false }

/-- `High(sda)`, with the use of its sample (R183). -/
def wireHigh (ph : BusPhase) (sdaLow : Bool) (e : SegEnd) : WireStep :=
  { sclLow := false, sdaLow := sdaLow, phase := ph, atEnd := e, waitSda := false }

/-- START: `High(rel, sample)` once SCL and SDA are high, `High(low)` (R185). -/
def startWire : List WireStep :=
  [{ wireHigh .write false .arbitrate with waitSda := true }, wireHigh .write true .nothing]

/-- Repeated START: `Low(rel)`, `High(rel, sample)`, `High(low)` (R186). -/
def restartWire : List WireStep :=
  [wireLow .read false, wireHigh .read false .arbitrate, wireHigh .read true .nothing]

/-- STOP: `Low(low)`, `High(low)`, `High(rel)` (R187). -/
def stopWire (ph : BusPhase) : List WireStep :=
  [wireLow ph true, wireHigh ph true .nothing, wireHigh ph false .nothing]

/-- A byte sent, most significant bit first: for each bit SDA released for a 1, which is checked for arbitration, and low for
a 0; then an acknowledge, whose NACK has this code (R188, R189, R192). -/
def sentWire (ph : BusPhase) (x : Byte) (nack : BusCode) : List WireStep :=
  ([7, 6, 5, 4, 3, 2, 1, 0].flatMap fun n =>
    [wireLow ph (!x.getLsbD n), wireHigh ph (!x.getLsbD n) (if x.getLsbD n then .arbitrate else .nothing)]) ++
    [wireLow ph false, wireHigh ph false (.acknowledge nack)]

/-- A byte received into place `k`: eight sampled bits with SDA released, then ACK (SDA low) or NACK (released)
(R190, R191, R193). -/
def receivedWire (k : Nat) (ack : Bool) : List WireStep :=
  (List.replicate 8 [wireLow .read false, wireHigh .read false .dataBit]).flatten ++
    [wireLow .read ack, wireHigh .read ack (.store k)]

/-- RTCRD: 0xD0 and 0x00 in the write phase, then 0xD1, ACK, ACK and NACK and STOP in the read phase (R200, R202). -/
def readWire : List WireStep :=
  startWire ++ sentWire .write 0xD0 .addrNack ++ sentWire .write 0x00 .dataNack ++
    restartWire ++ sentWire .read 0xD1 .addrNack ++
    receivedWire 0 true ++ receivedWire 1 true ++ receivedWire 2 false ++ stopWire .read

/-- RTCWR h, m, s: 0xD0, 0x00, bcd(s), bcd(m), bcd(h) & 0xBF and STOP, all in the write phase (R200, R206). -/
def writeWire (h m sec : Nat) : List WireStep :=
  startWire ++ sentWire .write 0xD0 .addrNack ++ sentWire .write 0x00 .dataNack ++
    sentWire .write (bcd sec) .dataNack ++ sentWire .write (bcd m) .dataNack ++
    sentWire .write (bcd h &&& 0xBF) .dataNack ++ stopWire .write

end Sys2Proof.Machine
end

