-- ==== Sys2Proof/Certificates/Slice0/Obligations.lean ====
section
/-! DEFINITION. The statements about NEOCLOCK-TC for the provers, in the order of OBLIGATIONS.json. A premise `s.Inv` rules
out states no run reaches; that every step keeps it is a statement of its own. -/

open Sys2Proof Sys2Proof.Machine

/-! ## Encoding (spec/30_encoding.md) -/

/-- Decoding the word of a well-formed command gives the command back (R91 to R95, R97). -/
def Obligations.DecodeOfEncode : Prop :=
  ∀ c : Instr, c.wf = true → decode (encode c) = .ok c

/-- A word that decodes is the word of the well-formed command it decodes to, so no bit of it is dropped (R91 to R98). -/
def Obligations.EncodeOfDecode : Prop :=
  ∀ (w : Word) (c : Instr), decode w = .ok c → c.wf = true ∧ encode c = w

/-- R98: the ILLEGAL words are those with a reserved opcode or a reserved bit set, they are rejected with code ILLEGAL and no
other effect (while no command runs: BUSY comes first, R120), and every word is exactly one row or ILLEGAL. -/
def Obligations.IllegalWordsAreTheReservedOnes : Prop :=
  ∀ w : Word,
    ((∃ e, decode w = .error e) ↔ 0xA ≤ opcodeField w ∨ w &&& reservedBits (opcodeField w) ≠ 0) ∧
    (∀ e, decode w = .error e → ∀ c : Instr, rowMatches w c.row.1 c.row.2 = false) ∧
    (∀ c, decode w = .ok c →
      rowMatches w c.row.1 c.row.2 = true ∧ ∀ d : Instr, rowMatches w d.row.1 d.row.2 = true → d.row = c.row) ∧
    ∀ e s, decode w = .error e → s.cmd.curOp = .none →
      issueCommand w s = .next { s with cmd := s.cmd.rejected .illegal }

/-- Words written out from the formats and the worked examples of the spec decode to the commands they stand for. -/
def Obligations.SpecWordsDecode : Prop :=
  decode 0x00000000 = .ok .nop ∧ decode 0x10000000 = .ok .tx ∧ decode 0x20000000 = .ok .clear ∧
    decode 0x30000032 = .ok (.pset 50) ∧ decode 0x4000FFFF = .ok (.padd 65535) ∧ decode 0x5000003C = .ok (.pget 60) ∧
    decode 0x6000003B = .ok (.setoff 59) ∧ decode 0x70000000 = .ok .rtcrd ∧
    decode 0x80173B3A = .ok (.rtcwr 23 59 58) ∧ decode 0x90000001 = .ok (.recal true)

/-- The fields of format T are those of TIME: a value read from TIME with opcode 8 in bits 31:28 is the RTCWR of that time
(a remark of spec/30_encoding.md section 1). -/
def Obligations.TimeWordIsAnRtcwr : Prop :=
  ∀ t : TimeOfDay, decode (timeWord t ||| 0x80000000) = .ok (.rtcwr t.hour.toNat t.min.toNat t.sec.toNat)

/-! ## Issue, acceptance and rejection (spec/40_command.md, spec/60_exceptions.md) -/

/-- R260 and R262: a rejected write to CMD leaves the cycle as it is without the access, but for REJ and REJCODE, and the code
is the first of BUSY, ILLEGAL and ARG that applies; a command that is executing continues unaffected. (`hRdata`, the model's own
field, is what `h_rdata` is in the cycle itself, whatever that is: logs 6 and 29.) -/
def Obligations.RejectedWriteChangesOnlyRej : Prop :=
  ∀ (i : CycleIn) (s : State) (code : RejCode),
    i.rst = false → i.hReq = 2 → i.hAddr = 0 → rejection s i.hWdata = some code →
      runCycle i s =
        mapNext (fun t => { t with cmd := t.cmd.rejected code, hRdata := readData i s }) (runCycle (noAccess i) s)

/-- R121: what acceptance does for every command, and for the bus-error fields and SECCHG. -/
def Obligations.AcceptanceEffects : Prop :=
  ∀ (w : Word) (c : Instr) (s : State),
    s.cmd.curOp = .none → 1 ≤ s.cfg.nPix → decode w = .ok c → argOk s.cfg c = true →
      ∃ t, issueCommand w s = .next t ∧
        t.cmd = (if longOp c = .none then s.cmd.completed else s.cmd.started (longOp c)) ∧
        (longOp c ≠ .rtcrd → longOp c ≠ .rtcwr → t.rtcm = s.rtcm) ∧
        (longOp c = .rtcrd ∨ longOp c = .rtcwr →
          t.rtcm.busErr = false ∧ t.rtcm.busPhase = .write ∧ t.rtcm.busCode = .none ∧
            t.rtcm.secChg = if longOp c = .rtcrd then false else s.rtcm.secChg)

/-- The cycle in which an idle block gets an instantaneous command: the command's own effect, the ticks of the cycle and
`lowRun`, and nothing else; BUSY stays 0 (spec/40_command.md section 1, R122; spec/44_millis.md section 4, R243). What the
bookkeeping fields take is the model's (logs 2, 6, 7 and 29). -/
def Obligations.InstantCommandTakesOneCycle : Prop :=
  ∀ (i : CycleIn) (c : Instr) (s t : State),
    s.Inv → currentInput s = i → i.rst = false → i.hReq = 2 → i.hAddr = 0 → s.cmd.curOp = .none →
    decode i.hWdata = .ok c → longOp c = .none → exec c s = .next t →
      t.cmd.curOp = .none ∧
      step s = .next { t with
        ltx := { s.ltx with lowRun := lowRunNext s }
        msync := { t.msync with
          rawTicks := addTicks t.msync.rawTicks (s.msync.tickPend.toNat + i.tick.toNat)
          tickPend := false }
        hRdata := 0
        cycle := s.cycle + 1
        inputs := s.inputs.tail }

/-- R124: NOP, its one word, its acceptance and its rejection. -/
def Obligations.NopResult : Prop :=
  DecodesAs 0 (fun _ => .nop) ∧
    ∀ s : State,
      (s.cmd.curOp = .none → exec .nop s = .next { s with cmd := s.cmd.completed }) ∧
      (s.cmd.curOp ≠ .none → exec .nop s = .next { s with cmd := s.cmd.rejected .busy })

/-! ## Frame memory (spec/41_framebuffer.md) -/

/-- R130: channel addition saturates at 255, and the three lanes of a color add on their own. -/
def Obligations.ChannelAdditionSaturates : Prop :=
  (∀ a b : Byte, (satAdd8 a b).toNat = min 255 (a.toNat + b.toNat)) ∧
    ∀ x y : Color,
      (addColor x y).g = satAdd8 x.g y.g ∧ (addColor x y).r = satAdd8 x.r y.r ∧ (addColor x y).b = satAdd8 x.b y.b

/-- R131: CLEAR writes 0 to every byte of the frame memory and nothing else but the acceptance effects. -/
def Obligations.ClearResult : Prop :=
  DecodesAs 2 (fun _ => .clear) ∧
    ∀ s : State, s.fmem.fb.wf →
      (s.cmd.curOp ≠ .none → exec .clear s = .next { s with cmd := s.cmd.rejected .busy }) ∧
      (s.cmd.curOp = .none →
        ∃ m : Memory,
          exec .clear s = .next { s with cmd := s.cmd.completed, fmem := { s.fmem with fb := m } } ∧
          (∀ a < 3 * s.cfg.nPix, m.read a = 0) ∧ ∀ a, 3 * s.cfg.nPix ≤ a → m.read a = s.fmem.fb.read a)

/-- R132: PSET i writes ARG's green, red and blue to the three bytes of slot `phys(i)`, for every index, and nothing else but
the acceptance effects. -/
def Obligations.PsetResult : Prop :=
  DecodesAs 3 (fun w => .pset (idxField w)) ∧
    ∀ (i : Nat) (s : State), s.fmem.fb.wf → 1 ≤ s.cfg.nPix →
      (s.cmd.curOp ≠ .none → exec (.pset i) s = .next { s with cmd := s.cmd.rejected .busy }) ∧
      (s.cmd.curOp = .none →
        ∃ m : Memory,
          exec (.pset i) s = .next { s with cmd := s.cmd.completed, fmem := { s.fmem with fb := m } } ∧
          phys s i = (i + s.fmem.offset.toNat) % s.cfg.nPix ∧ phys s i < s.cfg.nPix ∧
          m.read (3 * phys s i) = s.cmd.arg.extractLsb' 8 8 ∧
          m.read (3 * phys s i + 1) = s.cmd.arg.extractLsb' 16 8 ∧
          m.read (3 * phys s i + 2) = s.cmd.arg.extractLsb' 0 8 ∧
          ∀ a, a ≠ 3 * phys s i → a ≠ 3 * phys s i + 1 → a ≠ 3 * phys s i + 2 → m.read a = s.fmem.fb.read a)

/-- R133: PADD i adds ARG's lanes, each saturating, to the three bytes of slot `phys(i)`, and nothing else but the acceptance
effects. -/
def Obligations.PaddResult : Prop :=
  DecodesAs 4 (fun w => .padd (idxField w)) ∧
    ∀ (i : Nat) (s : State), s.fmem.fb.wf → 1 ≤ s.cfg.nPix →
      (s.cmd.curOp ≠ .none → exec (.padd i) s = .next { s with cmd := s.cmd.rejected .busy }) ∧
      (s.cmd.curOp = .none →
        ∃ m : Memory,
          exec (.padd i) s = .next { s with cmd := s.cmd.completed, fmem := { s.fmem with fb := m } } ∧
          phys s i = (i + s.fmem.offset.toNat) % s.cfg.nPix ∧ phys s i < s.cfg.nPix ∧
          (m.read (3 * phys s i)).toNat =
            min 255 ((s.fmem.fb.read (3 * phys s i)).toNat + (s.cmd.arg.extractLsb' 8 8).toNat) ∧
          (m.read (3 * phys s i + 1)).toNat =
            min 255 ((s.fmem.fb.read (3 * phys s i + 1)).toNat + (s.cmd.arg.extractLsb' 16 8).toNat) ∧
          (m.read (3 * phys s i + 2)).toNat =
            min 255 ((s.fmem.fb.read (3 * phys s i + 2)).toNat + (s.cmd.arg.extractLsb' 0 8).toNat) ∧
          ∀ a, a ≠ 3 * phys s i → a ≠ 3 * phys s i + 1 → a ≠ 3 * phys s i + 2 → m.read a = s.fmem.fb.read a)

/-- R134: PGET p puts 0x00RRGGBB of physical slot p into RESULT; p ≥ N_PIX is rejected with ARG; memory is unchanged. -/
def Obligations.PgetResult : Prop :=
  DecodesAs 5 (fun w => .pget (idxField w)) ∧
    ∀ (p : Nat) (s : State),
      (s.cmd.curOp ≠ .none → exec (.pget p) s = .next { s with cmd := s.cmd.rejected .busy }) ∧
      (s.cmd.curOp = .none → s.cfg.nPix ≤ p → exec (.pget p) s = .next { s with cmd := s.cmd.rejected .arg }) ∧
      (s.cmd.curOp = .none → p < s.cfg.nPix →
        exec (.pget p) s = .next { s with
          cmd := s.cmd.completed
          fmem := { s.fmem with
            result := 0#8 ++ s.fmem.fb.read (3 * p + 1) ++ s.fmem.fb.read (3 * p) ++ s.fmem.fb.read (3 * p + 2) } })

/-- R135: SETOFF o puts o into OFFSET; o ≥ N_PIX is rejected with ARG; memory is unchanged. (`o < 65536` is what the field
encodes.) -/
def Obligations.SetoffResult : Prop :=
  DecodesAs 6 (fun w => .setoff (idxField w)) ∧
    ∀ (o : Nat) (s : State), o < 65536 →
      (s.cmd.curOp ≠ .none → exec (.setoff o) s = .next { s with cmd := s.cmd.rejected .busy }) ∧
      (s.cmd.curOp = .none → s.cfg.nPix ≤ o → exec (.setoff o) s = .next { s with cmd := s.cmd.rejected .arg }) ∧
      (s.cmd.curOp = .none → o < s.cfg.nPix →
        ∃ v : BitVec 16, v.toNat = o ∧
          exec (.setoff o) s = .next { s with cmd := s.cmd.completed, fmem := { s.fmem with offset := v } })

/-- A pixel written with PSET is read back with PGET at the slot it landed in, ARG's top byte dropped (spec/41_framebuffer.md
section 2). -/
def Obligations.PgetReadsWhatPsetWrote : Prop :=
  ∀ (i : Nat) (s : State), s.fmem.fb.wf → s.cmd.curOp = .none → 1 ≤ s.cfg.nPix →
    ∃ t u, exec (.pset i) s = .next t ∧ exec (.pget (phys s i)) t = .next u ∧
      u.fmem.result = s.cmd.arg &&& 0x00FFFFFF

/-- R136 and R263, and the same of ARG, OFFSET and RESULT (spec/10_state.md section 1): only CLEAR, PSET, PADD and reset change
a byte of the frame memory, only SETOFF OFFSET, only PGET RESULT, only a write to ARG ARG; REJ and REJCODE are set by a
rejection, cleared by an acceptance and by reset, and held through everything else. -/
def Obligations.OnlyClearPsetPaddWriteFrame : Prop :=
  (∀ (i : CycleIn) (s t : State), s.Inv → currentInput s = i → i.rst = false → step s = .next t →
    ((∀ c, Accepts i s c → c ≠ .clear ∧ (∀ n, c ≠ .pset n) ∧ ∀ n, c ≠ .padd n) →
      ∀ a, t.fmem.fb.read a = s.fmem.fb.read a) ∧
    ((∀ o, ¬Accepts i s (.setoff o)) → t.fmem.offset = s.fmem.offset) ∧
    ((∀ p, ¬Accepts i s (.pget p)) → t.fmem.result = s.fmem.result) ∧
    t.cmd.arg = (if i.hReq = 2 ∧ i.hAddr = 1 then i.hWdata else s.cmd.arg) ∧
    (i.hReq ≠ 2 ∨ i.hAddr ≠ 0 → t.cmd.rej = s.cmd.rej ∧ t.cmd.rejCode = s.cmd.rejCode) ∧
    (i.hReq = 2 → i.hAddr = 0 →
      (∀ code, rejection s i.hWdata = some code → t.cmd.rej = true ∧ t.cmd.rejCode = code) ∧
      (rejection s i.hWdata = none → t.cmd.rej = false ∧ t.cmd.rejCode = .none))) ∧
  ∀ s t : State, (currentInput s).rst = true → step s = .next t → t.cmd.rej = false ∧ t.cmd.rejCode = .none

/-! ## LED transmitter (spec/42_transmit.md) -/

/-- TX's acceptance: `curOp`, DONE, and LTX in BIT if the line has been low for LATCH_CYC cycles, else in WAIT; the frame
memory is unchanged (spec/42_transmit.md sections 1 and 2). -/
def Obligations.TxAcceptance : Prop :=
  DecodesAs 1 (fun _ => .tx) ∧
    ∀ s : State,
      (s.cmd.curOp ≠ .none → exec .tx s = .next { s with cmd := s.cmd.rejected .busy }) ∧
      (s.cmd.curOp = .none →
        exec .tx s = .next { s with
          cmd := s.cmd.started .tx
          ltx := { s.ltx with
            txPhase :=
              if s.cfg.latchCyc ≤ (if s.ltx.ledO then 0 else min s.cfg.latchCyc (s.ltx.lowRun + 1)) then .bits else .wait
            txBit := 0
            txCyc := 0 } })

/-- R151: bit j of the frame is bit 7 − (j mod 8) of byte j div 8, so pixels go in slot order, green, red, blue within a
pixel and the most significant bit first within a byte. -/
def Obligations.FrameBitOrder : Prop :=
  (∀ (s : State) (j : Nat), j < 24 * s.cfg.nPix →
    frameBit s j = .next ((s.fmem.fb.read (j / 8)).getLsbD (7 - j % 8))) ∧
  ∀ (fb : Memory) (p k q : Nat), k < 3 → q < 8 → frameBitOf fb (24 * p + 8 * k + q) = (fb.read (3 * p + k)).getLsbD (7 - q)

/-- R158: `led_o` in the cycle and in the next one, and LTX at the cycle's end, by the table of the engine's encoding. -/
def Obligations.LtxFollowsItsTable : Prop :=
  ∀ (i : CycleIn) (s t : State), s.Inv → currentInput s = i → i.rst = false → step s = .next t →
    s.ltx.ledO =
      decide (s.ltx.txPhase = .bits ∧ s.ltx.txCyc < highTime s.cfg (frameBitOf s.fmem.fb s.ltx.txBit)) ∧
    t.ltx.ledO =
      decide (t.ltx.txPhase = .bits ∧ t.ltx.txCyc < highTime s.cfg (frameBitOf t.fmem.fb t.ltx.txBit)) ∧
    ∃ low : Nat, low = (if s.ltx.ledO = false then min s.cfg.latchCyc (s.ltx.lowRun + 1) else 0) ∧ t.ltx.lowRun = low ∧
      match s.ltx.txPhase with
      | .idle =>
        if Accepts i s .tx then
          t.ltx.txBit = 0 ∧ t.ltx.txCyc = 0 ∧ t.ltx.txPhase = if s.cfg.latchCyc ≤ low then .bits else .wait
        else t.ltx.txPhase = .idle ∧ t.ltx.txBit = s.ltx.txBit ∧ t.ltx.txCyc = s.ltx.txCyc
      | .wait =>
        t.ltx.txBit = 0 ∧ t.ltx.txCyc = 0 ∧ t.ltx.txPhase = if s.cfg.latchCyc ≤ low then .bits else .wait
      | .bits =>
        if s.ltx.txCyc < s.cfg.tbitCyc - 1 then
          t.ltx.txPhase = .bits ∧ t.ltx.txBit = s.ltx.txBit ∧ t.ltx.txCyc = s.ltx.txCyc + 1
        else if s.ltx.txBit < 24 * s.cfg.nPix - 1 then
          t.ltx.txPhase = .bits ∧ t.ltx.txBit = s.ltx.txBit + 1 ∧ t.ltx.txCyc = 0
        else t.ltx.txPhase = .latch ∧ t.ltx.txBit = s.ltx.txBit ∧ t.ltx.txCyc = 0
      | .latch =>
        if s.ltx.txCyc < s.cfg.latchCyc - 1 then
          t.ltx.txPhase = .latch ∧ t.ltx.txBit = s.ltx.txBit ∧ t.ltx.txCyc = s.ltx.txCyc + 1
        else
          t.ltx.txPhase = .idle ∧ t.ltx.txBit = s.ltx.txBit ∧ t.ltx.txCyc = 0 ∧ t.cmd.curOp = .none ∧ t.cmd.done = true

/-- The waveform of a whole TX, whatever the host, the ticks and the bus do: low in the WAIT cycles, bit j of the frame high
for its first TH cycles and low for the rest, no gap between bits, then the latch gap (spec/42_transmit.md section 2). -/
def Obligations.TxWaveform : Prop :=
  ∀ (i : CycleIn) (l : List CycleIn) (s : State),
    s.Inv → s.cmd.curOp = .none → s.inputs = i :: l → WritesCmd i 0x10000000 → NoResetFor (txBusyCycles s) l →
      (∀ m < txWaitCycles s, ∃ t, RunsTo (1 + m) s t ∧ t.ltx.ledO = false) ∧
      (∀ j < 24 * s.cfg.nPix, ∀ c < s.cfg.tbitCyc,
        ∃ t, RunsTo (1 + txWaitCycles s + j * s.cfg.tbitCyc + c) s t ∧
          t.ltx.ledO = decide (c < if frameBitOf s.fmem.fb j then s.cfg.t1hCyc else s.cfg.t0hCyc)) ∧
      ∀ m < s.cfg.latchCyc,
        ∃ t, RunsTo (1 + txWaitCycles s + 24 * s.cfg.nPix * s.cfg.tbitCyc + m) s t ∧ t.ltx.ledO = false

/-- R157 and R159: a TX keeps BUSY and TXACT at 1 for exactly max(0, LATCH_CYC − L0) + 24·N_PIX·TBIT_CYC + LATCH_CYC cycles;
then BUSY is 0 and DONE is 1, the line has been low for LATCH_CYC cycles, and the frame memory is what it was. -/
def Obligations.TxDuration : Prop :=
  (∀ (i : CycleIn) (l : List CycleIn) (s : State),
    s.Inv → s.cmd.curOp = .none → s.inputs = i :: l → WritesCmd i 0x10000000 → NoResetFor (txBusyCycles s) l →
      txBusyCycles s = (s.cfg.latchCyc - lowRunNext s) + 24 * s.cfg.nPix * s.cfg.tbitCyc + s.cfg.latchCyc ∧
      (∀ n < txBusyCycles s, ∃ t, RunsTo (1 + n) s t ∧ t.cmd.curOp = .tx ∧ t.cmd.done = false) ∧
      ∃ t, RunsTo (1 + txBusyCycles s) s t ∧ t.cmd.curOp = .none ∧ t.cmd.done = true ∧
        t.ltx.lowRun = s.cfg.latchCyc ∧ t.fmem = s.fmem) ∧
  24 * Params.reference.nPix * Params.reference.tbitCyc + Params.reference.latchCyc = 35560

/-- While a TX runs, LTX's next state depends on LTX, the frame memory and the parameters alone: no access, tick, bus
activity or other state can delay or stretch the waveform (a sentence of R160, spec/42_transmit.md section 2). -/
def Obligations.WaveformIgnoresEverythingElse : Prop :=
  ∀ s s' t t' : State, s.Inv → s'.Inv → s.cmd.curOp = .tx → s'.cmd.curOp = .tx →
    s.cfg = s'.cfg → s.fmem.fb = s'.fmem.fb → s.ltx = s'.ltx →
    (currentInput s).rst = false → (currentInput s').rst = false → step s = .next t → step s' = .next t' →
      t.ltx = t'.ltx ∧ t.cmd.curOp = t'.cmd.curOp

/-- Outside the bit phase `led_o` is 0: in IDLE, WAIT and LATCH, with no command, and during RTC commands
(spec/42_transmit.md section 2, R155). -/
def Obligations.LineLowOutsideBits : Prop :=
  ∀ s : State, Reachable s → (s.ltx.txPhase ≠ .bits → s.ltx.ledO = false) ∧ (s.cmd.curOp ≠ .tx → s.ltx.ledO = false)

/-- R156: `lowRun` counts the consecutive low cycles of `led_o` in every cycle, saturating at LATCH_CYC; reset sets it
to 0. -/
def Obligations.LowRunCountsLowCycles : Prop :=
  ∀ s t : State, step s = .next t →
    t.ltx.lowRun =
      if (currentInput s).rst then 0
      else if s.ltx.ledO = false then min s.cfg.latchCyc (s.ltx.lowRun + 1) else 0

/-! ## RTC two-wire master (spec/43_rtc.md) -/

/-- RTCRD's acceptance: the STATUS fields of R201, and RTCM in the first cycle of START with both lines released; or BUSY
(spec/43_rtc.md sections 1 and 3). That nothing else changes includes `rtRx`, which the model does not clear (log 13), and
`rtShift` (log 12). -/
def Obligations.RtcrdAcceptance : Prop :=
  DecodesAs 7 (fun _ => .rtcrd) ∧
    ∀ s : State,
      (s.cmd.curOp ≠ .none → exec .rtcrd s = .next { s with cmd := s.cmd.rejected .busy }) ∧
      (s.cmd.curOp = .none →
        exec .rtcrd s = .next { s with
          cmd := s.cmd.started .rtcrd
          rtcm := { s.rtcm with
            busErr := false, busPhase := .write, busCode := .none, secChg := false
            rtSeg := some 0, rtWait := 0, rtCnt := 0, sclOe := false, sdaOe := false } })

/-- RTCWR's acceptance: as RTCRD's, with the operands held and SECCHG kept; BUSY; or ARG with no bus activity
(spec/43_rtc.md sections 1 and 3). Where the operands are held is the model's (log 10), and so is that `rtRx` and `rtShift`
are unchanged (logs 12 and 13). -/
def Obligations.RtcwrAcceptance : Prop :=
  DecodesAs 8 (fun w => .rtcwr (hourField w) (minuteField w) (secondField w)) ∧
    ∀ (h m sec : Nat) (s : State),
      (s.cmd.curOp ≠ .none → exec (.rtcwr h m sec) s = .next { s with cmd := s.cmd.rejected .busy }) ∧
      (s.cmd.curOp = .none → 23 < h ∨ 59 < m ∨ 59 < sec →
        exec (.rtcwr h m sec) s = .next { s with cmd := s.cmd.rejected .arg }) ∧
      (s.cmd.curOp = .none → h ≤ 23 → m ≤ 59 → sec ≤ 59 →
        ∃ held : TimeOfDay, held.hour.toNat = h ∧ held.min.toNat = m ∧ held.sec.toNat = sec ∧
          exec (.rtcwr h m sec) s = .next { s with
            cmd := s.cmd.started .rtcwr
            rtcm := { s.rtcm with
              busErr := false, busPhase := .write, busCode := .none, held := held
              rtSeg := some 0, rtWait := 0, rtCnt := 0, sclOe := false, sdaOe := false } })

/-- R182: outside an RTC command, and after reset, RTCM releases both lines. -/
def Obligations.LinesReleasedOutsideRtc : Prop :=
  (∀ s : State, Reachable s → s.cmd.curOp ≠ .rtcrd → s.cmd.curOp ≠ .rtcwr →
    s.rtcm.sclOe = false ∧ s.rtcm.sdaOe = false) ∧
  ∀ s t : State, (currentInput s).rst = true → step s = .next t → t.rtcm.sclOe = false ∧ t.rtcm.sdaOe = false

/-- A wait cycle of a high segment counts; the STRETCH_MAX-th ends the command with TIMEOUT in the segment's phase, both lines
released, unless it is a NACK's recovery STOP (which reports the NACK, R195); fewer only lengthen the segment
(spec/43_rtc.md section 1, R184). RTCRAW is unchanged but for a TIMEOUT in the final STOP of RTCRD, where it takes the three
bytes received (section 3, R204, R207). The field that keeps the NACK is deduced from R195 (log 11). -/
def Obligations.StretchWaitsThenTimesOut : Prop :=
  ∀ (i : CycleIn) (s t : State) (k : Nat) (g : Segment),
    s.Inv → currentInput s = i → i.rst = false → InWaitCycle i s k g → step s = .next t →
      (s.rtcm.rtWait + 1 < s.cfg.stretchMax →
        t.rtcm = { s.rtcm with rtWait := s.rtcm.rtWait + 1 } ∧ t.cmd.curOp = s.cmd.curOp) ∧
      (s.rtcm.rtWait + 1 = s.cfg.stretchMax → s.rtcm.rtErr = none →
        EndsWithError s t { phase := g.phase, code := .timeout } ∧
          t.rtcm.rtcRaw =
            if s.cmd.curOp = .rtcrd ∧ 113 ≤ k then
              0#8 ++ s.rtcm.rtRx.hour ++ s.rtcm.rtRx.min ++ s.rtcm.rtRx.sec
            else s.rtcm.rtcRaw) ∧
      ∀ e, s.rtcm.rtWait + 1 = s.cfg.stretchMax → s.rtcm.rtErr = some e →
        EndsWithError s t e ∧ t.rtcm.rtcRaw = s.rtcm.rtcRaw

/-- A counted cycle that is not the last only counts, and the last cycle of a segment that has no check, with no sample (a
drive alone, or the acknowledge RTCM sends) or with a data bit as its sample, leads to the first cycle of the next segment,
with that segment's drives (spec/43_rtc.md section 1, R183, R190, R191). The data bit is shifted into `rtShift`, most
significant first (R193); a byte enters `rtRx` at the end of its acknowledge, which is deduced (log 13). -/
def Obligations.SegmentsFollowOneAnother : Prop :=
  ∀ (i : CycleIn) (s t : State) (k : Nat) (g : Segment),
    s.Inv → currentInput s = i → i.rst = false → s.rtcm.rtSeg = some k → (segments s)[k]? = some g →
    isWaitCycle i g s = false → step s = .next t →
      (s.rtcm.rtCnt + 1 < s.cfg.i2cHCyc →
        t.rtcm = { s.rtcm with rtCnt := s.rtcm.rtCnt + 1 } ∧ t.cmd.curOp = s.cmd.curOp) ∧
      (s.rtcm.rtCnt + 1 = s.cfg.i2cHCyc →
        (g.atEnd = .nothing → k + 1 < (segments s).length →
          EntersSegment s t (k + 1) ∧ t.rtcm.rtRx = s.rtcm.rtRx) ∧
        (g.atEnd = .dataBit →
          EntersSegment s t (k + 1) ∧ t.rtcm.rtRx = s.rtcm.rtRx ∧
            t.rtcm.rtShift.toNat = (2 * s.rtcm.rtShift.toNat + (sdaIn i s).toNat) % 256) ∧
        ∀ j, g.atEnd = .store j →
          EntersSegment s t (k + 1) ∧ t.rtcm.rtRx = storeByte j s.rtcm.rtShift s.rtcm.rtRx)

/-- Arbitration: a 0 sampled where RTCM released SDA to send a 1, or at START or repeated START, ends the command at that
cycle with ARB_LOST in the segment's phase, no STOP, both lines released; after a 1 the next segment follows with its own
drives (spec/43_rtc.md section 1). -/
def Obligations.ArbitrationLossEndsTheCommand : Prop :=
  ∀ (i : CycleIn) (s t : State) (k : Nat) (g : Segment),
    s.Inv → currentInput s = i → i.rst = false → InLastCycle i s k g → g.atEnd = .arbitrate → step s = .next t →
      (sdaIn i s = false → EndsWithError s t { phase := g.phase, code := .arbLost } ∧ t.rtcm.rtcRaw = s.rtcm.rtcRaw) ∧
      (sdaIn i s = true → EntersSegment s t (k + 1))

/-- NACK recovery: an acknowledge bit that samples 1 is followed by STOP's first segment, both lines low, with the NACK kept
as the error to report; one that samples 0 by the next segment with its own drives; and at the end of the list the NACK is
reported, RTCRAW unchanged (spec/43_rtc.md section 1, R195; section 3, R204, R207). The field that keeps the NACK is deduced
from R195 (log 11), and so is the place of its STOP, the last three segments of the same list (log 14). -/
def Obligations.NackSendsStopThenReports : Prop :=
  ∀ (i : CycleIn) (s t : State) (k : Nat) (g : Segment),
    s.Inv → currentInput s = i → i.rst = false → InLastCycle i s k g → step s = .next t →
      (∀ code, g.atEnd = .acknowledge code → sdaIn i s = true →
        EntersSegment s t ((segments s).length - 3) ∧ t.rtcm.sclOe = true ∧ t.rtcm.sdaOe = true ∧
          t.rtcm.rtErr = some { phase := g.phase, code := code }) ∧
      (∀ code, g.atEnd = .acknowledge code → sdaIn i s = false →
        EntersSegment s t (k + 1) ∧ t.rtcm.rtErr = none) ∧
      ∀ e, s.rtcm.rtErr = some e → k + 1 = (segments s).length →
        EndsWithError s t e ∧ t.rtcm.rtcRaw = s.rtcm.rtcRaw

/-- The bytes on the wire decode as R199 says, and BCD encode and decode are inverse on every field's range, both ways
(spec/43_rtc.md section 2, spec/90_conflicts.md C7). -/
def Obligations.BcdRoundTrip : Prop :=
  (∀ x : Byte, bcdDec x = x.toNat / 16 * 10 + x.toNat % 16) ∧
  (∀ (x : Byte) (n : Nat), bcdValid x n = decide (x.toNat / 16 ≤ 9 ∧ x.toNat % 16 ≤ 9 ∧ bcdDec x ≤ n)) ∧
  (∀ v n : Nat, v ≤ n → n ≤ 59 → bcdDec (bcd v) = v ∧ bcdValid (bcd v) n = true) ∧
  (∀ (x : Byte) (n : Nat), n ≤ 59 → bcdValid x n = true → bcd (bcdDec x) = x) ∧
  ∀ h : Nat, h ≤ 23 → hourByte h = bcd h

/-- The two sequences segment by segment, as R202 and R206 write them over R185 to R193: RTCRD has 116 segments and RTCWR 95;
the drives of START, repeated START, STOP, of every bit and of every acknowledge, the phase of each segment (R200), where
arbitration is checked, which code each NACK has, which samples are data bits, and that only the first segment of START waits
for SDA (spec/43_rtc.md sections 1 to 3). When `rtRx` takes a received byte is deduced (log 13). -/
def Obligations.SequenceLengths : Prop :=
  readSegs.length = 116 ∧ (∀ t : TimeOfDay, (writeSegs t).length = 95) ∧ addrW = 0xD0 ∧ addrR = 0xD1 ∧
    readSegs.map wireStepOf = readWire ∧
    ∀ t : TimeOfDay, (writeSegs t).map wireStepOf = writeWire t.hour.toNat t.min.toNat t.sec.toNat

/-- A whole RTCRD with a device that acknowledges every byte and answers valid bytes, no stretching: BUSY for 116·I2C_H_CYC
cycles, in which RTCM drives SCL and SDA segment by segment as `readWire` says (START, 0xD0, 0x00, repeated START, 0xD1, ACK,
ACK and NACK for the bytes received, STOP); then TIME holds the decoded bytes, RTCRAW the raw ones, SECCHG compares the second
with TIME's before, no bus error (spec/43_rtc.md sections 1 and 3). -/
def Obligations.RtcrdReadsTheTime : Prop :=
  ∀ (i : CycleIn) (l : List CycleIn) (s : State) (x : RxBytes),
    s.Inv → s.cmd.curOp = .none → s.inputs = i :: l → WritesCmd i 0x70000000 →
    FollowsScript s.cfg.i2cHCyc (readScript x) l →
    bcdValid x.sec 59 = true → bcdValid x.min 59 = true → bcdValid x.hour 23 = true →
      (∀ n < 116 * s.cfg.i2cHCyc, ∃ t, RunsTo (1 + n) s t ∧ t.cmd.curOp = .rtcrd ∧ t.rtcm.time = s.rtcm.time) ∧
      (∀ k w, readWire[k]? = some w → ∀ c < s.cfg.i2cHCyc,
        ∃ t, RunsTo (1 + k * s.cfg.i2cHCyc + c) s t ∧ t.rtcm.sclOe = w.sclLow ∧ t.rtcm.sdaOe = w.sdaLow) ∧
      ∃ t, RunsTo (1 + 116 * s.cfg.i2cHCyc) s t ∧ t.cmd.curOp = .none ∧ t.cmd.done = true ∧
        t.rtcm.time.sec.toNat = bcdDec x.sec ∧ t.rtcm.time.min.toNat = bcdDec x.min ∧
        t.rtcm.time.hour.toNat = bcdDec x.hour ∧
        t.rtcm.rtcRaw = 0#8 ++ x.hour ++ x.min ++ x.sec ∧
        t.rtcm.secChg = decide (bcdDec x.sec ≠ s.rtcm.time.sec.toNat) ∧
        t.rtcm.busErr = false ∧ t.rtcm.busPhase = .write ∧ t.rtcm.busCode = .none

/-- The same RTCRD with a byte that is not valid BCD in its range ends with RANGE in the read phase after the whole
sequence: TIME is stale, SECCHG is 0, RTCRAW holds the bytes (spec/43_rtc.md section 3). -/
def Obligations.RtcrdRangeErrorKeepsTime : Prop :=
  ∀ (i : CycleIn) (l : List CycleIn) (s : State) (x : RxBytes),
    s.Inv → s.cmd.curOp = .none → s.inputs = i :: l → WritesCmd i 0x70000000 →
    FollowsScript s.cfg.i2cHCyc (readScript x) l →
    ¬(bcdValid x.sec 59 = true ∧ bcdValid x.min 59 = true ∧ bcdValid x.hour 23 = true) →
      ∃ t, RunsTo (1 + 116 * s.cfg.i2cHCyc) s t ∧ t.cmd.curOp = .none ∧ t.cmd.done = true ∧
        t.rtcm.time = s.rtcm.time ∧ t.rtcm.secChg = false ∧ t.rtcm.rtcRaw = 0#8 ++ x.hour ++ x.min ++ x.sec ∧
        t.rtcm.busErr = true ∧ t.rtcm.busPhase = .read ∧ t.rtcm.busCode = .range

/-- A whole RTCWR with a device that acknowledges every byte, no stretching: in the SCL-high half of bit 7 − k of byte b the
line SDA is driven low exactly for a 0 of the bytes 0xD0, 0x00, bcd(s), bcd(m), bcd(h) & 0xBF; after 95·I2C_H_CYC cycles it
ends without error, TIME, RTCRAW and SECCHG unchanged (spec/43_rtc.md sections 1 and 3). -/
def Obligations.RtcwrSendsTheTime : Prop :=
  ∀ (i : CycleIn) (l : List CycleIn) (s : State) (h m sec : Nat),
    s.Inv → s.cmd.curOp = .none → s.inputs = i :: l → h ≤ 23 → m ≤ 59 → sec ≤ 59 →
    WritesCmd i (encode (.rtcwr h m sec)) → FollowsScript s.cfg.i2cHCyc writeScript l →
      (∀ b x, (writtenBytes h m sec)[b]? = some x → ∀ k < 8, ∀ c < s.cfg.i2cHCyc,
        ∃ t, RunsTo (1 + (2 + 18 * b + 2 * k + 1) * s.cfg.i2cHCyc + c) s t ∧
          t.rtcm.sclOe = false ∧ t.rtcm.sdaOe = !x.getLsbD (7 - k)) ∧
      (∀ n < 95 * s.cfg.i2cHCyc, ∃ t, RunsTo (1 + n) s t ∧ t.cmd.curOp = .rtcwr) ∧
      ∃ t, RunsTo (1 + 95 * s.cfg.i2cHCyc) s t ∧ t.cmd.curOp = .none ∧ t.cmd.done = true ∧
        t.rtcm.busErr = false ∧ t.rtcm.time = s.rtcm.time ∧ t.rtcm.rtcRaw = s.rtcm.rtcRaw ∧
        t.rtcm.secChg = s.rtcm.secChg

/-- With no device on the bus an RTC command ends after START, the address byte and STOP, 23·I2C_H_CYC cycles, with
ADDR_NACK in the write phase, TIME and RTCRAW unchanged (spec/43_rtc.md section 3, spec/70_reset_and_hazards.md
section 4). -/
def Obligations.AbsentDeviceIsAddrNack : Prop :=
  ∀ (i : CycleIn) (l : List CycleIn) (s : State) (c : Instr),
    s.Inv → s.inputs = i :: l → Accepts i s c → longOp c = .rtcrd ∨ longOp c = .rtcwr →
    FollowsScript s.cfg.i2cHCyc (List.replicate 23 false) l →
      (∀ n < 23 * s.cfg.i2cHCyc, ∃ t, RunsTo (1 + n) s t ∧ t.cmd.curOp = longOp c) ∧
      ∃ t, RunsTo (1 + 23 * s.cfg.i2cHCyc) s t ∧ t.cmd.curOp = .none ∧ t.cmd.done = true ∧
        t.rtcm.busErr = true ∧ t.rtcm.busPhase = .write ∧ t.rtcm.busCode = .addrNack ∧
        t.rtcm.time = s.rtcm.time ∧ t.rtcm.rtcRaw = s.rtcm.rtcRaw

/-- Every RTC command ends, whatever the other agents do on the bus: within 116 segments of at most STRETCH_MAX + I2C_H_CYC
cycles (spec/43_rtc.md section 1, R184: "This bounds the command"). -/
def Obligations.RtcCommandsEnd : Prop :=
  ∀ s : State, s.Inv → s.cmd.curOp = .rtcrd ∨ s.cmd.curOp = .rtcwr →
    NoResetFor (116 * (s.cfg.stretchMax + s.cfg.i2cHCyc)) s.inputs →
      ∃ n t, n ≤ 116 * (s.cfg.stretchMax + s.cfg.i2cHCyc) ∧ RunsTo n s t ∧ t.cmd.curOp = .none ∧ t.cmd.done = true

/-- The only writers of TIME are reset and the end of a successful RTCRD, which writes the decoded bytes in one edge
(spec/10_state.md section 1, R27; spec/43_rtc.md section 3). -/
def Obligations.OnlyGoodReadsWriteTime : Prop :=
  ∀ (s t : State), s.Inv → (currentInput s).rst = false → step s = .next t → t.rtcm.time ≠ s.rtcm.time →
    s.cmd.curOp = .rtcrd ∧ t.cmd.curOp = .none ∧ t.cmd.done = true ∧ t.rtcm.busErr = false ∧
      rxValid s.rtcm.rtRx = true ∧ t.rtcm.time.sec.toNat = bcdDec s.rtcm.rtRx.sec ∧
      t.rtcm.time.min.toNat = bcdDec s.rtcm.rtRx.min ∧ t.rtcm.time.hour.toNat = bcdDec s.rtcm.rtRx.hour

/-- R204: an RTCRD that ends with a bus error leaves TIME as it is and SECCHG 0; RTCRAW takes the three bytes if and only if
all three were received, that is for RANGE or for a TIMEOUT in the final STOP, segments 113 to 115. -/
def Obligations.FailedReadIsStale : Prop :=
  ∀ (s t : State), s.Inv → (currentInput s).rst = false → step s = .next t → s.cmd.curOp = .rtcrd →
    t.cmd.curOp = .none → t.rtcm.busErr = true →
      t.cmd.done = true ∧ t.rtcm.time = s.rtcm.time ∧ t.rtcm.secChg = false ∧
      t.rtcm.rtcRaw =
        if t.rtcm.busCode = .range ∨ (t.rtcm.busCode = .timeout ∧ 113 ≤ s.rtcm.rtSeg.getD 0) then
          0#8 ++ s.rtcm.rtRx.hour ++ s.rtcm.rtRx.min ++ s.rtcm.rtRx.sec
        else s.rtcm.rtcRaw

/-- The bus-error fields hold until the next RTCRD or RTCWR is accepted or the running one ends, or reset; no other command
changes them (spec/43_rtc.md section 3, R211). -/
def Obligations.BusErrorFieldsHold : Prop :=
  ∀ (i : CycleIn) (s t : State), s.Inv → currentInput s = i → i.rst = false → step s = .next t →
    (∀ c, Accepts i s c → longOp c ≠ .rtcrd ∧ longOp c ≠ .rtcwr) →
    (s.cmd.curOp = .rtcrd ∨ s.cmd.curOp = .rtcwr → t.cmd.curOp = s.cmd.curOp) →
      t.rtcm.busErr = s.rtcm.busErr ∧ t.rtcm.busPhase = s.rtcm.busPhase ∧ t.rtcm.busCode = s.rtcm.busCode

/-! ## Millisecond synchronizer (spec/44_millis.md) -/

/-- RECAL's acceptance: with c = 1 CALIB takes SMOOTH and RAWTICKS restarts (the ticks of the cycle are counted by the
cycle), with c = 0 acceptance only; BUSY; never ARG (spec/44_millis.md section 4). -/
def Obligations.RecalResult : Prop :=
  DecodesAs 9 (fun w => .recal (w.getLsbD 0)) ∧
    ∀ s : State,
      (∀ c, s.cmd.curOp ≠ .none → exec (.recal c) s = .next { s with cmd := s.cmd.rejected .busy }) ∧
      (s.cmd.curOp = .none → exec (.recal false) s = .next { s with cmd := s.cmd.completed }) ∧
      (s.cmd.curOp = .none →
        exec (.recal true) s = .next { s with
          cmd := s.cmd.completed
          msync := { s.msync with
            calib := smooth s.cfg.smooth s.msync.rawTicks s.msync.calib, rawTicks := 0 } })

/-- R243: RAWTICKS, CALIB and the pending latch at the end of every cycle that is no reset cycle. -/
def Obligations.TicksPerCycle : Prop :=
  ∀ (i : CycleIn) (s t : State), s.Inv → currentInput s = i → i.rst = false → step s = .next t →
    t.msync.rawTicks.toNat =
        min 0xFFFFFFFF
          ((if Accepts i s (.recal true) then 0 else s.msync.rawTicks.toNat) +
            (if s.cmd.curOp = .tx then 0 else s.msync.tickPend.toNat + i.tick.toNat)) ∧
      t.msync.calib =
        (if Accepts i s (.recal true) then smooth s.cfg.smooth s.msync.rawTicks s.msync.calib else s.msync.calib) ∧
      t.msync.tickPend =
        (if s.cmd.curOp = .tx then
          (if i.tick = true ∧ s.cfg.tickPendDepth = 1 then true else s.msync.tickPend)
        else false)

/-- R240: a tick counted in the cycle that accepts RECAL 1 belongs to the new second: CALIB takes SMOOTH of RAWTICKS without
it, and RAWTICKS ends the cycle at the number of ticks counted, 0, 1 or 2; such a cycle is never masked. -/
def Obligations.TickWithRecalStartsNewSecond : Prop :=
  ∀ (i : CycleIn) (s : State), s.Inv → currentInput s = i → Accepts i s (.recal true) →
    s.cmd.curOp ≠ .tx ∧
    ∃ t, step s = .next t ∧ t.msync.calib = smooth s.cfg.smooth s.msync.rawTicks s.msync.calib ∧
      t.msync.rawTicks.toNat = s.msync.tickPend.toNat + i.tick.toNat ∧ t.msync.tickPend = false

/-- Over a whole TX: the tick of the acceptance cycle counts, of the k ticks in the mask window min(k, TICK_PEND_DEPTH) are
kept, and they count after the latch gap, in the first cycle with TXACT = 0, with that cycle's own tick (spec/44_millis.md
section 2). -/
def Obligations.TxLosesMaskedTicks : Prop :=
  ∀ (i r : CycleIn) (l : List CycleIn) (s : State),
    s.Inv → s.cmd.curOp = .none → s.inputs = i :: l → WritesCmd i 0x10000000 → NoResetFor (txBusyCycles s + 1) l →
    l[txBusyCycles s]? = some r → r.hReq ≠ 2 →
      ∃ t, RunsTo (1 + txBusyCycles s + 1) s t ∧
        t.msync.rawTicks.toNat =
          min 0xFFFFFFFF
            (s.msync.rawTicks.toNat + s.msync.tickPend.toNat + i.tick.toNat +
              min (ticksIn (l.take (txBusyCycles s))) s.cfg.tickPendDepth.val + r.tick.toNat) ∧
        t.msync.tickPend = false ∧ t.msync.calib = s.msync.calib

/-- R232: RAWTICKS saturates at 0xFFFFFFFF and never wraps; only RECAL 1 and reset make it smaller. -/
def Obligations.RawTicksNeverWrap : Prop :=
  ∀ (i : CycleIn) (s t : State), s.Inv → currentInput s = i → i.rst = false → ¬Accepts i s (.recal true) →
    step s = .next t →
      s.msync.rawTicks.toNat ≤ t.msync.rawTicks.toNat ∧
        (s.msync.rawTicks = 0xFFFFFFFF → t.msync.rawTicks = 0xFFFFFFFF)

/-- R236 and R237: ELAPSED is min(1000, RAWTICKS·1000 div CALIB), the product exact; it is in 0 to 1000, 1000 exactly when
RAWTICKS ≥ CALIB and 0 exactly when RAWTICKS·1000 < CALIB. -/
def Obligations.ElapsedRange : Prop :=
  ∀ s : State, s.msync.calib ≠ 0 →
    (regRead s 6).toNat = min 1000 (s.msync.rawTicks.toNat * 1000 / s.msync.calib.toNat) ∧
      (regRead s 6).toNat ≤ 1000 ∧
      ((regRead s 6).toNat = 1000 ↔ s.msync.calib.toNat ≤ s.msync.rawTicks.toNat) ∧
      ((regRead s 6).toNat = 0 ↔ s.msync.rawTicks.toNat * 1000 < s.msync.calib.toNat)

/-- R239: SMOOTH's result is at least 1 whatever the function (and fits 32 bits by its type); the reference is
max(1, (raw + cal) div 2), and the floor changes it only for raw = 0 and cal = 1. -/
def Obligations.SmoothObligations : Prop :=
  (∀ (f : Smooth) (raw cal : Word), cal ≠ 0 → 1 ≤ (smooth f raw cal).toNat ∧ (smooth f raw cal).toNat ≤ 0xFFFFFFFF) ∧
  (∀ raw cal : Word, (smooth .reference raw cal).toNat = max 1 ((raw.toNat + cal.toNat) / 2)) ∧
  ∀ raw cal : Word, cal ≠ 0 → ((raw.toNat + cal.toNat) / 2 = 0 ↔ raw = 0 ∧ cal = 1)

/-- R242: CALIB is never 0 in a reachable state, is 1000 after reset, and only RECAL 1 writes it. -/
def Obligations.CalibNeverZero : Prop :=
  (∀ s : State, Reachable s → s.msync.calib ≠ 0) ∧ State.reset.msync.calib = 1000 ∧
  (∀ s t : State, (currentInput s).rst = true → step s = .next t → t.msync.calib = 1000) ∧
  ∀ (i : CycleIn) (s t : State), s.Inv → currentInput s = i → i.rst = false → ¬Accepts i s (.recal true) →
    step s = .next t → t.msync.calib = s.msync.calib

/-! ## Host registers (spec/10_state.md, spec/20_memory.md) -/

/-- What an access does to its cycle (spec/20_memory.md sections 1 and 2, R60, R71). A read gives the register at the start of
the cycle on `h_rdata` and changes nothing else; a write to ARG stores; a write to CMD issues a command; a write elsewhere, no
access and `h_req` = 3 do nothing; without a read `h_rdata` is 0. The model keeps `h_rdata` of a cycle in its own field
`hRdata` (log 6), and that it is 0 in a write cycle, where no rule gives it a value, is the model's choice (log 29). -/
def Obligations.HostAccessEffects : Prop :=
  ∀ (i : CycleIn) (s : State), i.rst = false →
    (i.hReq = 1 → runCycle i s = mapNext (fun t => { t with hRdata := regRead s i.hAddr }) (runCycle (noAccess i) s)) ∧
    (i.hReq = 2 → i.hAddr = 0 →
      runCycle i s = bindNext (issueCommand i.hWdata s) fun t => clockEdge i s t) ∧
    (i.hReq = 2 → i.hAddr = 1 →
      runCycle i s =
        mapNext (fun t => { t with cmd := { t.cmd with arg := i.hWdata } }) (runCycle (noAccess i) s)) ∧
    (i.hReq = 2 → 2 ≤ i.hAddr.toNat → runCycle i s = runCycle (noAccess i) s) ∧
    (i.hReq = 0 ∨ i.hReq = 3 → runCycle i s = runCycle (noAccess i) s) ∧
    ∀ t, i.hReq ≠ 1 → runCycle i s = .next t → t.hRdata = 0

/-- R61: the address decoder, for reads and writes. -/
def Obligations.RegisterMap : Prop :=
  ∀ (s : State) (v : Word),
    regRead s 0 = 0 ∧ regRead s 1 = s.cmd.arg ∧ regRead s 2 = statusWord s ∧ regRead s 3 = s.fmem.result ∧
      regRead s 4 = timeWord s.rtcm.time ∧ regRead s 5 = s.rtcm.rtcRaw ∧
      regRead s 6 = BitVec.ofNat 32 (min 1000 (s.msync.rawTicks.toNat * 1000 / s.msync.calib.toNat)) ∧
      regRead s 7 = s.msync.rawTicks ∧ regRead s 8 = s.msync.calib ∧ regRead s 9 = s.fmem.offset.setWidth 32 ∧
      regRead s 10 = BitVec.ofNat 32 s.cfg.nPix ∧ (∀ a : BitVec 4, 11 ≤ a.toNat → regRead s a = 0) ∧
      regWrite 0 v s = issueCommand v s ∧ regWrite 1 v s = .next { s with cmd := { s.cmd with arg := v } } ∧
      ∀ a : BitVec 4, 2 ≤ a.toNat → regWrite a v s = .next s

/-- The fields of STATUS at their bits; the reserved bits read 0 (spec/10_state.md section 1, R25). -/
def Obligations.StatusFields : Prop :=
  ∀ s : State,
    (statusWord s).getLsbD 0 = decide (s.cmd.curOp ≠ .none) ∧ (statusWord s).getLsbD 1 = decide (s.cmd.curOp = .tx) ∧
      (statusWord s).getLsbD 2 = s.cmd.done ∧ (statusWord s).getLsbD 3 = s.rtcm.busErr ∧
      (statusWord s).getLsbD 4 = decide (s.rtcm.busPhase = .read) ∧ (statusWord s).getLsbD 5 = s.rtcm.secChg ∧
      (statusWord s).getLsbD 6 = s.msync.tickPend ∧ (statusWord s).getLsbD 7 = s.cmd.rej ∧
      (statusWord s).extractLsb' 8 2 =
        (match s.cmd.rejCode with | .none => 0 | .busy => 1 | .illegal => 2 | .arg => 3) ∧
      (statusWord s).extractLsb' 10 2 = 0 ∧
      (statusWord s).extractLsb' 12 4 =
        (match s.rtcm.busCode with
          | .none => 0 | .addrNack => 1 | .dataNack => 2 | .arbLost => 3 | .timeout => 4 | .range => 5) ∧
      (statusWord s).extractLsb' 16 16 = 0

/-! ## Reset, the step and the invariant -/

/-- A cycle that writes a decoded command to CMD runs `exec` of it and then the engines, all from the state at the start of
the cycle: LTX, RTCM and MSYNC in this order, `led_o` of the next cycle, and the model's bookkeeping (logs 2, 6, 7 and 29). -/
def Obligations.StepRunsDecodedCommand : Prop :=
  ∀ (i : CycleIn) (w : Word) (c : Instr) (s : State),
    currentInput s = i → WritesCmd i w → decode w = .ok c →
      step s = bindNext (exec c s) fun t =>
        bindNext (driveLed (msyncCycle i s (rtcmCycle i s (ltxCycle s t)))) fun u =>
          .next { u with hRdata := 0, cycle := s.cycle + 1, inputs := s.inputs.tail }

/-- A reset cycle in one equation: the block is as `State.resetWith` says, whatever it was and whatever else the cycle holds.
It rests on the model's choices too: the reset values of the held operands (log 10) and of the field that keeps a NACK
(log 11), and the bookkeeping fields (logs 2, 6, 7 and 29). -/
def Obligations.ResetOverridesEverything : Prop :=
  ∀ s : State, (currentInput s).rst = true →
    step s = .next { State.resetWith s.cfg with
      hRdata := readData (currentInput s) s, cycle := s.cycle + 1, inputs := s.inputs.tail }

/-- R290 and R41: after a reset cycle, whatever the state was and whatever else the cycle held, and in the state after reset of
every configuration, every piece of state R41 lists has the value it lists. (`State.reset` is the case of the reference
configuration, which is the model's choice of a configuration to start in, log 1.) -/
def Obligations.ResetValues : Prop :=
  ∀ (p : Params) (s : State),
    (s = State.resetWith p ∨ ∃ r, r.cfg = p ∧ (currentInput r).rst = true ∧ step r = .next s) →
    s.cmd.arg = 0 ∧ statusWord s = 0 ∧ s.fmem.result = 0 ∧ timeWord s.rtcm.time = 0 ∧ s.rtcm.rtcRaw = 0 ∧
      s.msync.rawTicks = 0 ∧ s.msync.calib = 1000 ∧ s.fmem.offset = 0 ∧ (∀ a, s.fmem.fb.read a = 0) ∧
      s.cmd.curOp = .none ∧ s.ltx = { txPhase := .idle, txBit := 0, txCyc := 0, lowRun := 0, ledO := false } ∧
      s.rtcm.rtWait = 0 ∧ s.rtcm.rtCnt = 0 ∧ s.rtcm.rtShift = 0 ∧ s.rtcm.rtRx = { sec := 0, min := 0, hour := 0 } ∧
      s.rtcm.sclOe = false ∧ s.rtcm.sdaOe = false ∧ s.msync.tickPend = false ∧ regRead s 6 = 0 ∧
      regRead s 10 = BitVec.ofNat 32 p.nPix

/-- The reset state of every instance with legal parameters, and so of the reference one, meets the invariant. -/
def Obligations.ResetMeetsInvariant : Prop :=
  (∀ p : Params, p.Ok → (State.resetWith p).Inv) ∧ State.reset.Inv

/-- Every cycle keeps the invariant, from every state that meets it and with any inputs. -/
def Obligations.StepKeepsInvariant : Prop :=
  ∀ s t : State, s.Inv → step s = .next t → t.Inv

/-- In a state that meets the invariant the machine never stops: every cycle has a next state (no command can trap, R267,
and no caller leaves the frame memory, R64). -/
def Obligations.StepNeverStops : Prop :=
  ∀ s : State, s.Inv → ∃ t, step s = .next t

/-- R42: the invariants every reachable state satisfies. -/
def Obligations.ReachableStatesSatisfyR42 : Prop :=
  ∀ s : State, Reachable s →
    1 ≤ s.msync.calib.toNat ∧ s.rtcm.time.hour.toNat ≤ 23 ∧ s.rtcm.time.min.toNat ≤ 59 ∧ s.rtcm.time.sec.toNat ≤ 59 ∧
      (regRead s 6).toNat ≤ 1000 ∧ s.fmem.offset.toNat < s.cfg.nPix ∧
      ((statusWord s).getLsbD 1 = true → (statusWord s).getLsbD 0 = true) ∧
      (s.rtcm.busErr = false → s.rtcm.busPhase = .write ∧ s.rtcm.busCode = .none) ∧
      (s.cmd.rej = false → s.cmd.rejCode = .none) ∧
      (s.msync.tickPend = true →
        s.cmd.curOp = .tx ∨ ∃ r, Reachable r ∧ step r = .next s ∧ r.cmd.curOp = .tx)
end

