-- ==== Sys2Proof/Laws/Memory.lean ====
section
/-! SUPPORT. The laws of the frame memory: what a write reads back as, that every operation keeps the canonical form and
lists no new address, and that equal bytes are equal memories. -/

namespace Sys2Proof.Machine

/-! ## Lists of cells -/

/-- Cells whose addresses all lie above `a` list nothing at `a`. -/
theorem cellsRead_of_all_above (l : List Host.Cell) (a : Nat) (h : ∀ c ∈ l, a < c.1) :
    cellsRead l a = Memory.unlisted := by
  induction l with
  | nil => rfl
  | cons c rest ih =>
    have hc : a < c.1 := h c (by simp)
    obtain ⟨k, v⟩ := c
    have : k ≠ a := by simp at hc; omega
    simp [cellsRead, this, ih fun d hd => h d (by simp [hd])]

/-- Reading after a write, on lists sorted by address. -/
theorem cellsRead_cellsWrite (l : List Host.Cell) (h : l.Pairwise (fun c d => c.1 < d.1)) (a b : Nat) (v : Byte) :
    cellsRead (cellsWrite l a v) b = if b = a then v else cellsRead l b := by
  induction l with
  | nil => by_cases hv : v = Memory.unlisted <;> by_cases hb : b = a <;> simp_all [cellsWrite, cellsRead, eq_comm]
  | cons c rest ih =>
    obtain ⟨k, w⟩ := c
    obtain ⟨hk, hrest⟩ := List.pairwise_cons.1 h
    have above : ∀ x, x ≤ k → cellsRead rest x = Memory.unlisted := fun x hx =>
      cellsRead_of_all_above rest x fun d hd => by have := hk d hd; simp at this; omega
    by_cases hlt : a < k
    · by_cases hv : v = Memory.unlisted
      · by_cases hb : b = a
        · subst hb
          have hne : k ≠ b := by omega
          simp [cellsWrite, hlt, hv, cellsRead, hne, above b (by omega)]
        · simp [cellsWrite, hlt, hv, hb]
      · by_cases hb : b = a
        · simp [cellsWrite, hlt, hv, cellsRead, hb]
        · simp [cellsWrite, hlt, hv, cellsRead, hb, Ne.symm hb]
    · by_cases heq : a = k
      · subst heq
        by_cases hv : v = Memory.unlisted
        · by_cases hb : b = a
          · simp [cellsWrite, hv, hb, above a le_rfl]
          · simp [cellsWrite, hv, hb, cellsRead, Ne.symm hb]
        · by_cases hb : b = a
          · simp [cellsWrite, hv, hb, cellsRead]
          · simp [cellsWrite, hv, hb, cellsRead, Ne.symm hb]
      · by_cases hb : k = b
        · subst hb
          simp [cellsWrite, hlt, heq, cellsRead, Ne.symm heq]
        · simp [cellsWrite, hlt, heq, cellsRead, hb, ih hrest]

/-- Every cell of a written list is an old one or the one written. -/
theorem mem_cellsWrite (l : List Host.Cell) (a : Nat) (v : Byte) (c : Host.Cell) (h : c ∈ cellsWrite l a v) :
    c ∈ l ∨ c = (a, v) ∧ v ≠ Memory.unlisted := by
  induction l with
  | nil => simp only [cellsWrite] at h; split at h <;> simp_all
  | cons d rest ih =>
    obtain ⟨k, w⟩ := d
    simp only [cellsWrite] at h
    split at h
    · split at h <;> simp_all
      tauto
    · split at h
      · split at h <;> simp_all
        tauto
      · rcases List.mem_cons.1 h with h | h
        · simp [h]
        · rcases ih h with h | h
          · simp [h]
          · exact .inr h

/-- A write keeps a list sorted. -/
theorem cellsWrite_sorted (l : List Host.Cell) (a : Nat) (v : Byte) (h : l.Pairwise (fun c d => c.1 < d.1)) :
    (cellsWrite l a v).Pairwise (fun c d => c.1 < d.1) := by
  induction l with
  | nil => simp only [cellsWrite]; split <;> simp
  | cons d rest ih =>
    obtain ⟨k, w⟩ := d
    obtain ⟨hk, hrest⟩ := List.pairwise_cons.1 h
    simp only [cellsWrite]
    split
    · split
      · exact h
      · refine List.pairwise_cons.2 ⟨fun c hc => ?_, h⟩
        rcases List.mem_cons.1 hc with hc | hc
        · simp [hc]; assumption
        · have := hk c hc; simp at this ⊢; omega
    · split
      · split
        · exact hrest
        · refine List.pairwise_cons.2 ⟨fun c hc => ?_, hrest⟩
          have := hk c hc; simp at this ⊢; omega
      · refine List.pairwise_cons.2 ⟨fun c hc => ?_, ih hrest⟩
        rcases mem_cellsWrite rest a v c hc with hc | ⟨hc, _⟩
        · exact hk c hc
        · simp [hc]; omega

/-! ## Memories -/

/-- A fresh memory lists nothing. -/
@[simp] theorem Memory.read_empty (a : Nat) : ({ cells := [] } : Memory).read a = 0 := rfl

/-- Read after write. -/
theorem Memory.read_write (m : Memory) (h : m.wf) (a b : Nat) (v : Byte) :
    (m.write a v).read b = if b = a then v else m.read b :=
  cellsRead_cellsWrite m.cells h.1 a b v

/-- A write keeps the canonical form. -/
theorem Memory.wf_write (m : Memory) (a : Nat) (v : Byte) (h : m.wf) : (m.write a v).wf := by
  refine ⟨cellsWrite_sorted m.cells a v h.1, fun c hc => ?_⟩
  rcases mem_cellsWrite m.cells a v c hc with hc | ⟨hc, hv⟩
  · exact h.2 c hc
  · simpa [hc] using hv

/-- A write lists no address but the one written. -/
theorem Memory.below_write (m : Memory) (a n : Nat) (v : Byte) (ha : a < n) (h : ∀ c ∈ m.cells, c.1 < n) :
    ∀ c ∈ (m.write a v).cells, c.1 < n := by
  intro c hc
  rcases mem_cellsWrite m.cells a v c hc with hc | ⟨hc, _⟩
  · exact h c hc
  · simpa [hc] using ha

/-- Clearing keeps the canonical form. -/
theorem Memory.wf_clearBelow (m : Memory) (n : Nat) (h : m.wf) : (m.clearBelow n).wf := by
  induction n with
  | zero => exact h
  | succ n ih => exact Memory.wf_write _ _ _ ih

/-- Clearing lists no new address below a bound. -/
theorem Memory.below_clearBelow (m : Memory) (n k : Nat) (hk : n ≤ k) (h : ∀ c ∈ m.cells, c.1 < k) :
    ∀ c ∈ (m.clearBelow n).cells, c.1 < k := by
  induction n with
  | zero => exact h
  | succ n ih => exact Memory.below_write _ _ _ _ (by omega) (ih (by omega))

/-- After clearing the first `n` bytes they read 0, and the others as before. -/
theorem Memory.read_clearBelow (m : Memory) (n a : Nat) (h : m.wf) :
    (m.clearBelow n).read a = if a < n then 0 else m.read a := by
  induction n with
  | zero => simp [Memory.clearBelow]
  | succ n ih =>
    rw [Memory.clearBelow, Memory.read_write _ (Memory.wf_clearBelow m n h), ih]
    by_cases h1 : a = n
    · simp [h1]
    · by_cases h2 : a < n
      · simp [h1, h2, show a < n + 1 by omega]
      · simp [h1, h2, show ¬ a < n + 1 by omega]

/-- An address below every listed one reads as unlisted; at the first listed address its byte is read. -/
theorem cellsRead_cons_self (k : Nat) (v : Byte) (rest : List Host.Cell) : cellsRead ((k, v) :: rest) k = v := by
  simp [cellsRead]

/-- Two lists of cells in canonical form that read alike are equal. -/
theorem cells_ext (l r : List Host.Cell) (hl : l.Pairwise (fun c d => c.1 < d.1)) (hr : r.Pairwise (fun c d => c.1 < d.1))
    (nl : ∀ c ∈ l, c.2 ≠ Memory.unlisted) (nr : ∀ c ∈ r, c.2 ≠ Memory.unlisted)
    (h : ∀ a, cellsRead l a = cellsRead r a) : l = r := by
  induction l generalizing r with
  | nil =>
    cases r with
    | nil => rfl
    | cons c rest =>
      have := h c.1
      rw [show c = (c.1, c.2) from rfl, cellsRead_cons_self] at this
      exact absurd this.symm (nr c (by simp))
  | cons c l ih =>
    obtain ⟨hc, hl'⟩ := List.pairwise_cons.1 hl
    cases r with
    | nil =>
      have := h c.1
      rw [show c = (c.1, c.2) from rfl, cellsRead_cons_self] at this
      exact absurd this (nl c (by simp))
    | cons d r =>
      obtain ⟨hd, hr'⟩ := List.pairwise_cons.1 hr
      obtain ⟨k, v⟩ := c
      obtain ⟨j, w⟩ := d
      have hkj : k = j := by
        by_contra hne
        rcases Nat.lt_or_gt_of_ne hne with hlt | hlt
        · have e := h k
          rw [cellsRead_cons_self, cellsRead_of_all_above _ k (fun x hx => ?_)] at e
          · exact nl (k, v) (by simp) e
          · rcases List.mem_cons.1 hx with hx | hx
            · simpa [hx] using hlt
            · have := hd x hx; simp at this; omega
        · have e := h j
          rw [cellsRead_cons_self, cellsRead_of_all_above _ j (fun x hx => ?_)] at e
          · exact nr (j, w) (by simp) e.symm
          · rcases List.mem_cons.1 hx with hx | hx
            · simpa [hx] using hlt
            · have := hc x hx; simp at this; omega
      subst hkj
      have hvw : v = w := by simpa [cellsRead] using h k
      subst hvw
      congr 1
      refine ih r hl' hr' (fun c hc => nl c (by simp [hc])) (fun c hc => nr c (by simp [hc])) fun a => ?_
      by_cases ha : k = a
      · subst ha
        rw [cellsRead_of_all_above l k fun x hx => hc x hx, cellsRead_of_all_above r k fun x hx => hd x hx]
      · simpa [cellsRead, ha] using h a

/-- Memories in canonical form that read alike are equal. -/
theorem Memory.ext_of_read (m n : Memory) (hm : m.wf) (hn : n.wf) (h : ∀ a, m.read a = n.read a) : m = n := by
  obtain ⟨l⟩ := m
  obtain ⟨r⟩ := n
  exact congrArg Memory.mk (cells_ext l r hm.1 hn.1 hm.2 hn.2 h)

/-- The memory after reset is in canonical form, and every byte of it reads 0 (spec/10_state.md R34, R41). -/
theorem resetWith_memory_wf (p : Params) : (State.resetWith p).fmem.fb.wf :=
  ⟨List.Pairwise.nil, fun _ h => absurd h List.not_mem_nil⟩

theorem reset_memory_wf : State.reset.fmem.fb.wf := resetWith_memory_wf Params.reference

end Sys2Proof.Machine
end

