-- ==== Sys2Proof/Laws/State.lean ====
section
/-! SUPPORT. One lemma per field per update of the state, true by unfolding once, so that no later proof unfolds an
update. -/

namespace Sys2Proof.Machine

/-! ## A rejection, acceptance and completion touch the command processor only -/


@[simp] theorem reject_cfg (c : RejCode) (s : State) : (reject c s).cfg = s.cfg := rfl
@[simp] theorem reject_cmd (c : RejCode) (s : State) : (reject c s).cmd = { s.cmd with rej := true, rejCode := c } := rfl
@[simp] theorem reject_fmem (c : RejCode) (s : State) : (reject c s).fmem = s.fmem := rfl
@[simp] theorem reject_ltx (c : RejCode) (s : State) : (reject c s).ltx = s.ltx := rfl
@[simp] theorem reject_rtcm (c : RejCode) (s : State) : (reject c s).rtcm = s.rtcm := rfl
@[simp] theorem reject_msync (c : RejCode) (s : State) : (reject c s).msync = s.msync := rfl
@[simp] theorem reject_hRdata (c : RejCode) (s : State) : (reject c s).hRdata = s.hRdata := rfl
@[simp] theorem reject_cycle (c : RejCode) (s : State) : (reject c s).cycle = s.cycle := rfl
@[simp] theorem reject_inputs (c : RejCode) (s : State) : (reject c s).inputs = s.inputs := rfl

@[simp] theorem acceptNow_cfg (s : State) : (acceptNow s).cfg = s.cfg := rfl
@[simp] theorem acceptNow_cmd (s : State) : (acceptNow s).cmd = { s.cmd with rej := false, rejCode := .none, done := true } := rfl
@[simp] theorem acceptNow_fmem (s : State) : (acceptNow s).fmem = s.fmem := rfl
@[simp] theorem acceptNow_ltx (s : State) : (acceptNow s).ltx = s.ltx := rfl
@[simp] theorem acceptNow_rtcm (s : State) : (acceptNow s).rtcm = s.rtcm := rfl
@[simp] theorem acceptNow_msync (s : State) : (acceptNow s).msync = s.msync := rfl
@[simp] theorem acceptNow_hRdata (s : State) : (acceptNow s).hRdata = s.hRdata := rfl
@[simp] theorem acceptNow_cycle (s : State) : (acceptNow s).cycle = s.cycle := rfl
@[simp] theorem acceptNow_inputs (s : State) : (acceptNow s).inputs = s.inputs := rfl

@[simp] theorem acceptLong_cfg (op : CurOp) (s : State) : (acceptLong op s).cfg = s.cfg := rfl
@[simp] theorem acceptLong_cmd (op : CurOp) (s : State) : (acceptLong op s).cmd = { s.cmd with rej := false, rejCode := .none, done := false, curOp := op } := rfl
@[simp] theorem acceptLong_fmem (op : CurOp) (s : State) : (acceptLong op s).fmem = s.fmem := rfl
@[simp] theorem acceptLong_ltx (op : CurOp) (s : State) : (acceptLong op s).ltx = s.ltx := rfl
@[simp] theorem acceptLong_rtcm (op : CurOp) (s : State) : (acceptLong op s).rtcm = s.rtcm := rfl
@[simp] theorem acceptLong_msync (op : CurOp) (s : State) : (acceptLong op s).msync = s.msync := rfl
@[simp] theorem acceptLong_hRdata (op : CurOp) (s : State) : (acceptLong op s).hRdata = s.hRdata := rfl
@[simp] theorem acceptLong_cycle (op : CurOp) (s : State) : (acceptLong op s).cycle = s.cycle := rfl
@[simp] theorem acceptLong_inputs (op : CurOp) (s : State) : (acceptLong op s).inputs = s.inputs := rfl

@[simp] theorem finishLong_cfg (s : State) : (finishLong s).cfg = s.cfg := rfl
@[simp] theorem finishLong_cmd (s : State) : (finishLong s).cmd = { s.cmd with curOp := .none, done := true } := rfl
@[simp] theorem finishLong_fmem (s : State) : (finishLong s).fmem = s.fmem := rfl
@[simp] theorem finishLong_ltx (s : State) : (finishLong s).ltx = s.ltx := rfl
@[simp] theorem finishLong_rtcm (s : State) : (finishLong s).rtcm = s.rtcm := rfl
@[simp] theorem finishLong_msync (s : State) : (finishLong s).msync = s.msync := rfl
@[simp] theorem finishLong_hRdata (s : State) : (finishLong s).hRdata = s.hRdata := rfl
@[simp] theorem finishLong_cycle (s : State) : (finishLong s).cycle = s.cycle := rfl
@[simp] theorem finishLong_inputs (s : State) : (finishLong s).inputs = s.inputs := rfl


/-! ## The ends of an RTC command touch the command processor and RTCM only -/


@[simp] theorem busFail_cfg (e : BusError) (s : State) : (busFail e s).cfg = s.cfg := rfl
@[simp] theorem busFail_cmd (e : BusError) (s : State) : (busFail e s).cmd = { s.cmd with curOp := .none, done := true } := rfl
@[simp] theorem busFail_fmem (e : BusError) (s : State) : (busFail e s).fmem = s.fmem := rfl
@[simp] theorem busFail_ltx (e : BusError) (s : State) : (busFail e s).ltx = s.ltx := rfl
@[simp] theorem busFail_rtcm (e : BusError) (s : State) : (busFail e s).rtcm = { releaseBus s.rtcm with busErr := true, busPhase := e.phase, busCode := e.code, secChg := if s.cmd.curOp = .rtcrd then false else s.rtcm.secChg } := rfl
@[simp] theorem busFail_msync (e : BusError) (s : State) : (busFail e s).msync = s.msync := rfl
@[simp] theorem busFail_hRdata (e : BusError) (s : State) : (busFail e s).hRdata = s.hRdata := rfl
@[simp] theorem busFail_cycle (e : BusError) (s : State) : (busFail e s).cycle = s.cycle := rfl
@[simp] theorem busFail_inputs (e : BusError) (s : State) : (busFail e s).inputs = s.inputs := rfl

@[simp] theorem storeRaw_cfg (s : State) : (storeRaw s).cfg = s.cfg := rfl
@[simp] theorem storeRaw_cmd (s : State) : (storeRaw s).cmd = s.cmd := rfl
@[simp] theorem storeRaw_fmem (s : State) : (storeRaw s).fmem = s.fmem := rfl
@[simp] theorem storeRaw_ltx (s : State) : (storeRaw s).ltx = s.ltx := rfl
@[simp] theorem storeRaw_rtcm (s : State) : (storeRaw s).rtcm = { s.rtcm with rtcRaw := rxRaw s.rtcm.rtRx } := rfl
@[simp] theorem storeRaw_msync (s : State) : (storeRaw s).msync = s.msync := rfl
@[simp] theorem storeRaw_hRdata (s : State) : (storeRaw s).hRdata = s.hRdata := rfl
@[simp] theorem storeRaw_cycle (s : State) : (storeRaw s).cycle = s.cycle := rfl
@[simp] theorem storeRaw_inputs (s : State) : (storeRaw s).inputs = s.inputs := rfl

@[simp] theorem readSuccess_cfg (s : State) : (readSuccess s).cfg = s.cfg := rfl
@[simp] theorem readSuccess_cmd (s : State) : (readSuccess s).cmd = { s.cmd with curOp := .none, done := true } := rfl
@[simp] theorem readSuccess_fmem (s : State) : (readSuccess s).fmem = s.fmem := rfl
@[simp] theorem readSuccess_ltx (s : State) : (readSuccess s).ltx = s.ltx := rfl
@[simp] theorem readSuccess_rtcm (s : State) : (readSuccess s).rtcm = { clearBusError (releaseBus s.rtcm) with secChg := decide (bcdDec s.rtcm.rtRx.sec ≠ s.rtcm.time.sec.toNat), time := rxTime s.rtcm.rtRx, rtcRaw := rxRaw s.rtcm.rtRx } := rfl
@[simp] theorem readSuccess_msync (s : State) : (readSuccess s).msync = s.msync := rfl
@[simp] theorem readSuccess_hRdata (s : State) : (readSuccess s).hRdata = s.hRdata := rfl
@[simp] theorem readSuccess_cycle (s : State) : (readSuccess s).cycle = s.cycle := rfl
@[simp] theorem readSuccess_inputs (s : State) : (readSuccess s).inputs = s.inputs := rfl

@[simp] theorem writeSuccess_cfg (s : State) : (writeSuccess s).cfg = s.cfg := rfl
@[simp] theorem writeSuccess_cmd (s : State) : (writeSuccess s).cmd = { s.cmd with curOp := .none, done := true } := rfl
@[simp] theorem writeSuccess_fmem (s : State) : (writeSuccess s).fmem = s.fmem := rfl
@[simp] theorem writeSuccess_ltx (s : State) : (writeSuccess s).ltx = s.ltx := rfl
@[simp] theorem writeSuccess_rtcm (s : State) : (writeSuccess s).rtcm = clearBusError (releaseBus s.rtcm) := rfl
@[simp] theorem writeSuccess_msync (s : State) : (writeSuccess s).msync = s.msync := rfl
@[simp] theorem writeSuccess_hRdata (s : State) : (writeSuccess s).hRdata = s.hRdata := rfl
@[simp] theorem writeSuccess_cycle (s : State) : (writeSuccess s).cycle = s.cycle := rfl
@[simp] theorem writeSuccess_inputs (s : State) : (writeSuccess s).inputs = s.inputs := rfl


/-! ## MSYNC's cycle and the bookkeeping of a cycle -/


@[simp] theorem msyncCycle_cfg (i : CycleIn) (s₀ s : State) : (msyncCycle i s₀ s).cfg = s.cfg := rfl
@[simp] theorem msyncCycle_cmd (i : CycleIn) (s₀ s : State) : (msyncCycle i s₀ s).cmd = s.cmd := rfl
@[simp] theorem msyncCycle_fmem (i : CycleIn) (s₀ s : State) : (msyncCycle i s₀ s).fmem = s.fmem := rfl
@[simp] theorem msyncCycle_ltx (i : CycleIn) (s₀ s : State) : (msyncCycle i s₀ s).ltx = s.ltx := rfl
@[simp] theorem msyncCycle_rtcm (i : CycleIn) (s₀ s : State) : (msyncCycle i s₀ s).rtcm = s.rtcm := rfl
@[simp] theorem msyncCycle_msync (i : CycleIn) (s₀ s : State) : (msyncCycle i s₀ s).msync = { s.msync with rawTicks := addTicks s.msync.rawTicks (ticksCounted i s₀), tickPend := tickPendNext i s₀ } := rfl
@[simp] theorem msyncCycle_hRdata (i : CycleIn) (s₀ s : State) : (msyncCycle i s₀ s).hRdata = s.hRdata := rfl
@[simp] theorem msyncCycle_cycle (i : CycleIn) (s₀ s : State) : (msyncCycle i s₀ s).cycle = s.cycle := rfl
@[simp] theorem msyncCycle_inputs (i : CycleIn) (s₀ s : State) : (msyncCycle i s₀ s).inputs = s.inputs := rfl

@[simp] theorem closeCycle_cfg (i : CycleIn) (s₀ s : State) : (closeCycle i s₀ s).cfg = s.cfg := rfl
@[simp] theorem closeCycle_cmd (i : CycleIn) (s₀ s : State) : (closeCycle i s₀ s).cmd = s.cmd := rfl
@[simp] theorem closeCycle_fmem (i : CycleIn) (s₀ s : State) : (closeCycle i s₀ s).fmem = s.fmem := rfl
@[simp] theorem closeCycle_ltx (i : CycleIn) (s₀ s : State) : (closeCycle i s₀ s).ltx = s.ltx := rfl
@[simp] theorem closeCycle_rtcm (i : CycleIn) (s₀ s : State) : (closeCycle i s₀ s).rtcm = s.rtcm := rfl
@[simp] theorem closeCycle_msync (i : CycleIn) (s₀ s : State) : (closeCycle i s₀ s).msync = s.msync := rfl
@[simp] theorem closeCycle_hRdata (i : CycleIn) (s₀ s : State) : (closeCycle i s₀ s).hRdata = readData i s₀ := rfl
@[simp] theorem closeCycle_cycle (i : CycleIn) (s₀ s : State) : (closeCycle i s₀ s).cycle = s₀.cycle + 1 := rfl
@[simp] theorem closeCycle_inputs (i : CycleIn) (s₀ s : State) : (closeCycle i s₀ s).inputs = s₀.inputs.tail := rfl

@[simp] theorem withFetchWord_cfg (s : State) (nbits w : Nat) : (s.withFetchWord nbits w).cfg = s.cfg := rfl
@[simp] theorem withFetchWord_cmd (s : State) (nbits w : Nat) : (s.withFetchWord nbits w).cmd = s.cmd := rfl
@[simp] theorem withFetchWord_fmem (s : State) (nbits w : Nat) : (s.withFetchWord nbits w).fmem = s.fmem := rfl
@[simp] theorem withFetchWord_ltx (s : State) (nbits w : Nat) : (s.withFetchWord nbits w).ltx = s.ltx := rfl
@[simp] theorem withFetchWord_rtcm (s : State) (nbits w : Nat) : (s.withFetchWord nbits w).rtcm = s.rtcm := rfl
@[simp] theorem withFetchWord_msync (s : State) (nbits w : Nat) : (s.withFetchWord nbits w).msync = s.msync := rfl
@[simp] theorem withFetchWord_hRdata (s : State) (nbits w : Nat) : (s.withFetchWord nbits w).hRdata = s.hRdata := rfl
@[simp] theorem withFetchWord_cycle (s : State) (nbits w : Nat) : (s.withFetchWord nbits w).cycle = s.cycle := rfl
@[simp] theorem withFetchWord_inputs (s : State) (nbits w : Nat) : (s.withFetchWord nbits w).inputs = queueCommand (BitVec.ofNat 32 (w % 2 ^ nbits)) s.inputs := rfl


/-! ## Updates of RTCM -/


@[simp] theorem releaseBus_time (r : RtcmUnit) : (releaseBus r).time = r.time := rfl
@[simp] theorem releaseBus_rtcRaw (r : RtcmUnit) : (releaseBus r).rtcRaw = r.rtcRaw := rfl
@[simp] theorem releaseBus_busErr (r : RtcmUnit) : (releaseBus r).busErr = r.busErr := rfl
@[simp] theorem releaseBus_busPhase (r : RtcmUnit) : (releaseBus r).busPhase = r.busPhase := rfl
@[simp] theorem releaseBus_busCode (r : RtcmUnit) : (releaseBus r).busCode = r.busCode := rfl
@[simp] theorem releaseBus_secChg (r : RtcmUnit) : (releaseBus r).secChg = r.secChg := rfl
@[simp] theorem releaseBus_rtSeg (r : RtcmUnit) : (releaseBus r).rtSeg = none := rfl
@[simp] theorem releaseBus_rtWait (r : RtcmUnit) : (releaseBus r).rtWait = 0 := rfl
@[simp] theorem releaseBus_rtCnt (r : RtcmUnit) : (releaseBus r).rtCnt = 0 := rfl
@[simp] theorem releaseBus_rtShift (r : RtcmUnit) : (releaseBus r).rtShift = r.rtShift := rfl
@[simp] theorem releaseBus_rtRx (r : RtcmUnit) : (releaseBus r).rtRx = r.rtRx := rfl
@[simp] theorem releaseBus_sclOe (r : RtcmUnit) : (releaseBus r).sclOe = false := rfl
@[simp] theorem releaseBus_sdaOe (r : RtcmUnit) : (releaseBus r).sdaOe = false := rfl
@[simp] theorem releaseBus_rtErr (r : RtcmUnit) : (releaseBus r).rtErr = none := rfl
@[simp] theorem releaseBus_held (r : RtcmUnit) : (releaseBus r).held = r.held := rfl

@[simp] theorem clearBusError_time (r : RtcmUnit) : (clearBusError r).time = r.time := rfl
@[simp] theorem clearBusError_rtcRaw (r : RtcmUnit) : (clearBusError r).rtcRaw = r.rtcRaw := rfl
@[simp] theorem clearBusError_busErr (r : RtcmUnit) : (clearBusError r).busErr = false := rfl
@[simp] theorem clearBusError_busPhase (r : RtcmUnit) : (clearBusError r).busPhase = .write := rfl
@[simp] theorem clearBusError_busCode (r : RtcmUnit) : (clearBusError r).busCode = .none := rfl
@[simp] theorem clearBusError_secChg (r : RtcmUnit) : (clearBusError r).secChg = r.secChg := rfl
@[simp] theorem clearBusError_rtSeg (r : RtcmUnit) : (clearBusError r).rtSeg = r.rtSeg := rfl
@[simp] theorem clearBusError_rtWait (r : RtcmUnit) : (clearBusError r).rtWait = r.rtWait := rfl
@[simp] theorem clearBusError_rtCnt (r : RtcmUnit) : (clearBusError r).rtCnt = r.rtCnt := rfl
@[simp] theorem clearBusError_rtShift (r : RtcmUnit) : (clearBusError r).rtShift = r.rtShift := rfl
@[simp] theorem clearBusError_rtRx (r : RtcmUnit) : (clearBusError r).rtRx = r.rtRx := rfl
@[simp] theorem clearBusError_sclOe (r : RtcmUnit) : (clearBusError r).sclOe = r.sclOe := rfl
@[simp] theorem clearBusError_sdaOe (r : RtcmUnit) : (clearBusError r).sdaOe = r.sdaOe := rfl
@[simp] theorem clearBusError_rtErr (r : RtcmUnit) : (clearBusError r).rtErr = r.rtErr := rfl
@[simp] theorem clearBusError_held (r : RtcmUnit) : (clearBusError r).held = r.held := rfl

@[simp] theorem enterSegment_time (k : Nat) (g : Segment) (r : RtcmUnit) : (enterSegment k g r).time = r.time := rfl
@[simp] theorem enterSegment_rtcRaw (k : Nat) (g : Segment) (r : RtcmUnit) : (enterSegment k g r).rtcRaw = r.rtcRaw := rfl
@[simp] theorem enterSegment_busErr (k : Nat) (g : Segment) (r : RtcmUnit) : (enterSegment k g r).busErr = r.busErr := rfl
@[simp] theorem enterSegment_busPhase (k : Nat) (g : Segment) (r : RtcmUnit) : (enterSegment k g r).busPhase = r.busPhase := rfl
@[simp] theorem enterSegment_busCode (k : Nat) (g : Segment) (r : RtcmUnit) : (enterSegment k g r).busCode = r.busCode := rfl
@[simp] theorem enterSegment_secChg (k : Nat) (g : Segment) (r : RtcmUnit) : (enterSegment k g r).secChg = r.secChg := rfl
@[simp] theorem enterSegment_rtSeg (k : Nat) (g : Segment) (r : RtcmUnit) : (enterSegment k g r).rtSeg = some k := rfl
@[simp] theorem enterSegment_rtWait (k : Nat) (g : Segment) (r : RtcmUnit) : (enterSegment k g r).rtWait = 0 := rfl
@[simp] theorem enterSegment_rtCnt (k : Nat) (g : Segment) (r : RtcmUnit) : (enterSegment k g r).rtCnt = 0 := rfl
@[simp] theorem enterSegment_rtShift (k : Nat) (g : Segment) (r : RtcmUnit) : (enterSegment k g r).rtShift = g.load.getD r.rtShift := rfl
@[simp] theorem enterSegment_rtRx (k : Nat) (g : Segment) (r : RtcmUnit) : (enterSegment k g r).rtRx = r.rtRx := rfl
@[simp] theorem enterSegment_sclOe (k : Nat) (g : Segment) (r : RtcmUnit) : (enterSegment k g r).sclOe = !g.high := rfl
@[simp] theorem enterSegment_sdaOe (k : Nat) (g : Segment) (r : RtcmUnit) : (enterSegment k g r).sdaOe = g.sdaLow := rfl
@[simp] theorem enterSegment_rtErr (k : Nat) (g : Segment) (r : RtcmUnit) : (enterSegment k g r).rtErr = r.rtErr := rfl
@[simp] theorem enterSegment_held (k : Nat) (g : Segment) (r : RtcmUnit) : (enterSegment k g r).held = r.held := rfl

@[simp] theorem startRead_time (r : RtcmUnit) : (startRead r).time = r.time := rfl
@[simp] theorem startRead_rtcRaw (r : RtcmUnit) : (startRead r).rtcRaw = r.rtcRaw := rfl
@[simp] theorem startRead_busErr (r : RtcmUnit) : (startRead r).busErr = false := rfl
@[simp] theorem startRead_busPhase (r : RtcmUnit) : (startRead r).busPhase = .write := rfl
@[simp] theorem startRead_busCode (r : RtcmUnit) : (startRead r).busCode = .none := rfl
@[simp] theorem startRead_secChg (r : RtcmUnit) : (startRead r).secChg = false := rfl
@[simp] theorem startRead_rtSeg (r : RtcmUnit) : (startRead r).rtSeg = some 0 := rfl
@[simp] theorem startRead_rtWait (r : RtcmUnit) : (startRead r).rtWait = 0 := rfl
@[simp] theorem startRead_rtCnt (r : RtcmUnit) : (startRead r).rtCnt = 0 := rfl
@[simp] theorem startRead_rtShift (r : RtcmUnit) : (startRead r).rtShift = r.rtShift := rfl
@[simp] theorem startRead_rtRx (r : RtcmUnit) : (startRead r).rtRx = r.rtRx := rfl
@[simp] theorem startRead_sclOe (r : RtcmUnit) : (startRead r).sclOe = false := rfl
@[simp] theorem startRead_sdaOe (r : RtcmUnit) : (startRead r).sdaOe = false := rfl
@[simp] theorem startRead_rtErr (r : RtcmUnit) : (startRead r).rtErr = r.rtErr := rfl
@[simp] theorem startRead_held (r : RtcmUnit) : (startRead r).held = r.held := rfl

@[simp] theorem startWrite_time (h m x : Nat) (r : RtcmUnit) : (startWrite h m x r).time = r.time := rfl
@[simp] theorem startWrite_rtcRaw (h m x : Nat) (r : RtcmUnit) : (startWrite h m x r).rtcRaw = r.rtcRaw := rfl
@[simp] theorem startWrite_busErr (h m x : Nat) (r : RtcmUnit) : (startWrite h m x r).busErr = false := rfl
@[simp] theorem startWrite_busPhase (h m x : Nat) (r : RtcmUnit) : (startWrite h m x r).busPhase = .write := rfl
@[simp] theorem startWrite_busCode (h m x : Nat) (r : RtcmUnit) : (startWrite h m x r).busCode = .none := rfl
@[simp] theorem startWrite_secChg (h m x : Nat) (r : RtcmUnit) : (startWrite h m x r).secChg = r.secChg := rfl
@[simp] theorem startWrite_rtSeg (h m x : Nat) (r : RtcmUnit) : (startWrite h m x r).rtSeg = some 0 := rfl
@[simp] theorem startWrite_rtWait (h m x : Nat) (r : RtcmUnit) : (startWrite h m x r).rtWait = 0 := rfl
@[simp] theorem startWrite_rtCnt (h m x : Nat) (r : RtcmUnit) : (startWrite h m x r).rtCnt = 0 := rfl
@[simp] theorem startWrite_rtShift (h m x : Nat) (r : RtcmUnit) : (startWrite h m x r).rtShift = r.rtShift := rfl
@[simp] theorem startWrite_rtRx (h m x : Nat) (r : RtcmUnit) : (startWrite h m x r).rtRx = r.rtRx := rfl
@[simp] theorem startWrite_sclOe (h m x : Nat) (r : RtcmUnit) : (startWrite h m x r).sclOe = false := rfl
@[simp] theorem startWrite_sdaOe (h m x : Nat) (r : RtcmUnit) : (startWrite h m x r).sdaOe = false := rfl
@[simp] theorem startWrite_rtErr (h m x : Nat) (r : RtcmUnit) : (startWrite h m x r).rtErr = r.rtErr := rfl
@[simp] theorem startWrite_held (h m x : Nat) (r : RtcmUnit) : (startWrite h m x r).held = { hour := BitVec.ofNat 5 h, min := BitVec.ofNat 6 m, sec := BitVec.ofNat 6 x } := rfl


/-! ## Reset -/


@[simp] theorem takeReset_eq (s : State) : takeReset s = State.resetWith s.cfg := rfl

@[simp] theorem resetWith_cfg (p : Params) : (State.resetWith p).cfg = p := rfl


/-! ## BUSY and TXACT follow `curOp` alone -/

theorem busy_eq_false (s : State) : s.busy = false ↔ s.cmd.curOp = .none := by simp [State.busy]

theorem busy_eq_true (s : State) : s.busy = true ↔ s.cmd.curOp ≠ .none := by simp [State.busy]

theorem txAct_eq_true (s : State) : s.txAct = true ↔ s.cmd.curOp = .tx := by simp [State.txAct]

theorem txAct_eq_false (s : State) : s.txAct = false ↔ s.cmd.curOp ≠ .tx := by simp [State.txAct]

end Sys2Proof.Machine
end

