-- ==== Sys2Proof/Laws/Ops.lean ====
section
/-! SUPPORT. What each shared operation can do, said once: outcomes, the frame-memory primitives, pixels, and the issue of a
command. -/

namespace Sys2Proof.Machine

/-! ## Outcomes -/

@[simp] theorem bindNext_next {α β : Type} (a : α) (f : α → Host.Outcome β Fault Refusal) :
    bindNext (.next a) f = f a := rfl

@[simp] theorem bindNext_fault {α β : Type} (e : Fault) (f : α → Host.Outcome β Fault Refusal) :
    bindNext (.fault e) f = .fault e := rfl

@[simp] theorem bindNext_refused {α β : Type} (e : Refusal) (f : α → Host.Outcome β Fault Refusal) :
    bindNext (.refused e) f = .refused e := rfl

/-- A chain answers a value exactly when its first part does and the rest answers it. -/
theorem bindNext_eq_next {α β : Type} (o : Host.Outcome α Fault Refusal) (f : α → Host.Outcome β Fault Refusal) (b : β) :
    bindNext o f = .next b ↔ ∃ a, o = .next a ∧ f a = .next b := by
  cases o <;> simp

/-- A chain passes a stop on: it faults where its first part faults, or where the rest does. -/
theorem bindNext_eq_fault {α β : Type} (o : Host.Outcome α Fault Refusal) (f : α → Host.Outcome β Fault Refusal)
    (e : Fault) : bindNext o f = .fault e ↔ o = .fault e ∨ ∃ a, o = .next a ∧ f a = .fault e := by
  cases o <;> simp

/-! ## Frame memory -/

theorem memRead_of_lt (s : State) (a : Nat) (h : a < fbSize s) : memRead s a = .next (s.fmem.fb.read a) := by
  simp [memRead, h]

theorem memRead_eq_next (s : State) (a : Nat) (v : Byte) :
    memRead s a = .next v ↔ a < fbSize s ∧ s.fmem.fb.read a = v := by
  unfold memRead; split <;> simp_all

theorem memWrite_of_lt (s : State) (a : Nat) (v : Byte) (h : a < fbSize s) :
    memWrite s a v = .next { s with fmem := { s.fmem with fb := s.fmem.fb.write a v } } := by
  simp [memWrite, h]

theorem memWrite_eq_next (s : State) (a : Nat) (v : Byte) (t : State) :
    memWrite s a v = .next t ↔ a < fbSize s ∧ { s with fmem := { s.fmem with fb := s.fmem.fb.write a v } } = t := by
  unfold memWrite; split <;> simp_all

/-- The memory with the three bytes of a slot written. -/
def Memory.writeSlot (m : Memory) (p : Nat) (c : Color) : Memory :=
  ((m.write (3 * p) c.g).write (3 * p + 1) c.r).write (3 * p + 2) c.b

theorem Memory.wf_writeSlot (m : Memory) (p : Nat) (c : Color) (h : m.wf) : (m.writeSlot p c).wf :=
  Memory.wf_write _ _ _ (Memory.wf_write _ _ _ (Memory.wf_write _ _ _ h))

theorem Memory.below_writeSlot (m : Memory) (p n : Nat) (c : Color) (hp : p < n)
    (h : ∀ c ∈ m.cells, c.1 < 3 * n) : ∀ d ∈ (m.writeSlot p c).cells, d.1 < 3 * n :=
  Memory.below_write _ _ _ _ (by omega)
    (Memory.below_write _ _ _ _ (by omega) (Memory.below_write _ _ _ _ (by omega) h))

/-- What the bytes of a written slot, and all others, read as: green, red, blue in address order. -/
theorem Memory.read_writeSlot (m : Memory) (p a : Nat) (c : Color) (h : m.wf) :
    (m.writeSlot p c).read a =
      if a = 3 * p then c.g else if a = 3 * p + 1 then c.r else if a = 3 * p + 2 then c.b else m.read a := by
  unfold Memory.writeSlot
  rw [Memory.read_write _ (Memory.wf_write _ _ _ (Memory.wf_write _ _ _ h)), Memory.read_write _ (Memory.wf_write _ _ _ h),
    Memory.read_write _ h]
  by_cases h0 : a = 3 * p
  · simp [h0]
  · by_cases h1 : a = 3 * p + 1
    · simp [h1]
    · by_cases h2 : a = 3 * p + 2 <;> simp [h0, h1, h2]

/-- Reading a slot of the frame. -/
theorem readPixel_of_lt (s : State) (p : Nat) (h : p < s.cfg.nPix) :
    readPixel s p =
      .next { r := s.fmem.fb.read (3 * p + 1), g := s.fmem.fb.read (3 * p), b := s.fmem.fb.read (3 * p + 2) } := by
  have hs : fbSize s = 3 * s.cfg.nPix := rfl
  simp [readPixel, memRead_of_lt s (3 * p) (by omega), memRead_of_lt s (3 * p + 1) (by omega),
    memRead_of_lt s (3 * p + 2) (by omega)]

/-- Writing a slot of the frame changes the frame memory only. -/
theorem writePixel_of_lt (s : State) (p : Nat) (c : Color) (h : p < s.cfg.nPix) :
    writePixel s p c = .next { s with fmem := { s.fmem with fb := s.fmem.fb.writeSlot p c } } := by
  have h0 : 3 * p < 3 * s.cfg.nPix := by omega
  have h1 : 3 * p + 1 < 3 * s.cfg.nPix := by omega
  have h2 : 3 * p + 2 < 3 * s.cfg.nPix := by omega
  simp [writePixel, memWrite, fbSize, h0, h1, h2, Memory.writeSlot]

/-- A pixel write that answers wrote a slot and nothing else. -/
theorem writePixel_eq_next (s t : State) (p : Nat) (c : Color) (h : writePixel s p c = .next t) :
    t = { s with fmem := { s.fmem with fb := s.fmem.fb.writeSlot p c } } := by
  simp only [writePixel, bindNext_eq_next, memWrite_eq_next] at h
  obtain ⟨s1, ⟨_, rfl⟩, s2, ⟨_, rfl⟩, _, rfl⟩ := h
  rfl

/-- The logical-to-physical map lands in the frame. -/
theorem phys_lt (s : State) (i : Nat) (h : 1 ≤ s.cfg.nPix) : phys s i < s.cfg.nPix :=
  Nat.mod_lt _ h

/-! ## Issue -/

@[simp] theorem issue_busy (ok : Bool) (s : State) (o : Host.Outcome State Fault Refusal) (h : s.busy = true) :
    issue ok s o = .next (reject .busy s) := by simp [issue, h]

@[simp] theorem issue_arg (s : State) (o : Host.Outcome State Fault Refusal) (h : s.busy = false) :
    issue false s o = .next (reject .arg s) := by simp [issue, h]

@[simp] theorem issue_ok (s : State) (o : Host.Outcome State Fault Refusal) (h : s.busy = false) :
    issue true s o = o := by simp [issue, h]

/-- What the issue of a decoded command can answer: a rejection with BUSY or ARG, or what its own rule answers. -/
theorem issue_eq_next (ok : Bool) (s t : State) (o : Host.Outcome State Fault Refusal) (h : issue ok s o = .next t) :
    (s.busy = true ∧ t = reject .busy s) ∨ (s.busy = false ∧ ok = false ∧ t = reject .arg s) ∨
      (s.busy = false ∧ ok = true ∧ o = .next t) := by
  unfold issue at h
  split at h
  · exact .inl ⟨by assumption, by simpa using h.symm⟩
  · split at h
    · exact .inr (.inr ⟨by simp_all, by assumption, h⟩)
    · exact .inr (.inl ⟨by simp_all, by simp_all, by simpa using h.symm⟩)

end Sys2Proof.Machine
end

