-- ==== Sys2Proof/Laws/Exec.lean ====
section
/-! SUPPORT. What a command written to CMD can do, said once: the inversion of `exec` and of the host's access. -/

namespace Sys2Proof.Machine

/-- The state a command's acceptance leaves, in the terms of the units it changes; `i` has passed its operand check and the
block is idle. One case per command. -/
inductive Accepted (s : State) : Instr → State → Prop where
  | nop : Accepted s .nop (acceptNow s)
  | tx : Accepted s .tx (acceptLong .tx { s with ltx := startFrame s })
  | clear : Accepted s .clear (acceptNow { s with fmem := { s.fmem with fb := s.fmem.fb.clearBelow (fbSize s) } })
  | pset (i : Nat) : Accepted s (.pset i)
      (acceptNow { s with fmem := { s.fmem with fb := s.fmem.fb.writeSlot (phys s i) (colorOf s.cmd.arg) } })
  | padd (i : Nat) (c : Color) (h : readPixel s (phys s i) = .next c) : Accepted s (.padd i)
      (acceptNow { s with fmem :=
        { s.fmem with fb := s.fmem.fb.writeSlot (phys s i) (addColor c (colorOf s.cmd.arg)) } })
  | pget (p : Nat) (c : Color) (hp : p < s.cfg.nPix) (h : readPixel s p = .next c) : Accepted s (.pget p)
      (acceptNow { s with fmem := { s.fmem with result := colorWord c } })
  | setoff (o : Nat) (h : o < s.cfg.nPix) : Accepted s (.setoff o)
      (acceptNow { s with fmem := { s.fmem with offset := BitVec.ofNat 16 o } })
  | rtcrd : Accepted s .rtcrd (acceptLong .rtcrd { s with rtcm := startRead s.rtcm })
  | rtcwr (h m x : Nat) (hr : timeInRange h m x = true) : Accepted s (.rtcwr h m x)
      (acceptLong .rtcwr { s with rtcm := startWrite h m x s.rtcm })
  | recal0 : Accepted s (.recal false) (acceptNow s)
  | recal1 : Accepted s (.recal true)
      (acceptNow { s with msync :=
        { s.msync with calib := smooth s.cfg.smooth s.msync.rawTicks s.msync.calib, rawTicks := 0 } })

/-- A command that answers a next state was rejected with BUSY or ARG, or was accepted with its own effect. -/
theorem exec_cases (i : Instr) (s t : State) (h : exec i s = .next t) :
    (s.busy = true ∧ t = reject .busy s) ∨ (s.busy = false ∧ t = reject .arg s) ∨
      (s.busy = false ∧ Accepted s i t) := by
  have finish : ∀ ok o, issue ok s o = .next t → (ok = true → o = .next t → Accepted s i t) →
      (s.busy = true ∧ t = reject .busy s) ∨ (s.busy = false ∧ t = reject .arg s) ∨
        (s.busy = false ∧ Accepted s i t) := by
    intro ok o ho hacc
    rcases issue_eq_next ok s t o ho with h | ⟨hb, _, ht⟩ | ⟨hb, hok, hnext⟩
    · exact .inl h
    · exact .inr (.inl ⟨hb, ht⟩)
    · exact .inr (.inr ⟨hb, hacc hok hnext⟩)
  cases i with
  | nop => exact finish _ _ h fun _ e => by cases e; exact .nop
  | tx => exact finish _ _ h fun _ e => by cases e; exact .tx
  | clear => exact finish _ _ h fun _ e => by cases e; exact .clear
  | pset i =>
    exact finish _ _ h fun _ e => by
      cases writePixel_eq_next _ _ _ _ e
      exact .pset i
  | padd i =>
    exact finish _ _ h fun _ e => by
      obtain ⟨c, hc, e⟩ := (bindNext_eq_next _ _ _).1 e
      cases writePixel_eq_next _ _ _ _ e
      exact .padd i c hc
  | pget p =>
    exact finish _ _ h fun ok e => by
      obtain ⟨c, hc, e⟩ := (bindNext_eq_next _ _ _).1 e
      cases e
      exact .pget p c (by simpa using ok) hc
  | setoff o => exact finish _ _ h fun ok e => by cases e; exact .setoff o (by simpa using ok)
  | rtcrd => exact finish _ _ h fun _ e => by cases e; exact .rtcrd
  | rtcwr a b c => exact finish _ _ h fun ok e => by cases e; exact .rtcwr a b c ok
  | recal c =>
    exact finish _ _ h fun _ e => by
      cases c <;> cases e
      · exact .recal0
      · exact .recal1

/-- What the host's access of one cycle can write. -/
theorem hostAccess_cases (i : CycleIn) (s t : State) (h : hostAccess i s = .next t) :
    t = s ∨ t = { s with cmd := { s.cmd with arg := i.hWdata } } ∨
      (s.busy = true ∧ t = reject .busy s) ∨ (s.busy = false ∧ ∃ c, t = reject c s ∧ c ≠ .none) ∨
      (s.busy = false ∧ i.hReq = 2 ∧ i.hAddr = 0 ∧ ∃ c, decode i.hWdata = .ok c ∧ Accepted s c t) := by
  unfold hostAccess at h
  split at h
  · rename_i hw
    unfold regWrite at h
    split at h
    · rename_i ha
      have ha0 : i.hAddr = 0 := by apply BitVec.eq_of_toNat_eq; simpa using ha
      unfold issueCommand at h
      split at h
      · rename_i c hc
        rcases exec_cases c s t h with h | ⟨hb, ht⟩ | ⟨hb, hacc⟩
        · exact .inr (.inr (.inl h))
        · exact .inr (.inr (.inr (.inl ⟨hb, _, ht, by simp⟩)))
        · exact .inr (.inr (.inr (.inr ⟨hb, hw, ha0, c, hc, hacc⟩)))
      · simp only [Host.Outcome.next.injEq] at h
        by_cases hb : s.busy = true
        · exact .inr (.inr (.inl ⟨hb, by simp [← h, hb]⟩))
        · have hb : s.busy = false := by simpa using hb
          exact .inr (.inr (.inr (.inl ⟨hb, .illegal, by simp [← h, hb], by simp⟩)))
    · exact .inr (.inl (by simpa using h.symm))
    · exact .inl (by simpa using h.symm)
  · exact .inl (by simpa using h.symm)

end Sys2Proof.Machine
end

