-- ==== Sys2Proof/Laws/Engines.lean ====
section
/-! SUPPORT. What one cycle of each engine can do, said once: which units it leaves alone, how it ends, and that it keeps its
part of the invariant. -/

namespace Sys2Proof.Machine

/-! ## LTX -/

@[simp] theorem ltxCycle_cfg (s t : State) : (ltxCycle s t).cfg = t.cfg := by unfold ltxCycle; dsimp only; split <;> rfl
@[simp] theorem ltxCycle_fmem (s t : State) : (ltxCycle s t).fmem = t.fmem := by unfold ltxCycle; dsimp only; split <;> rfl
@[simp] theorem ltxCycle_rtcm (s t : State) : (ltxCycle s t).rtcm = t.rtcm := by unfold ltxCycle; dsimp only; split <;> rfl
@[simp] theorem ltxCycle_msync (s t : State) : (ltxCycle s t).msync = t.msync := by unfold ltxCycle; dsimp only; split <;> rfl
@[simp] theorem ltxCycle_ltx (s t : State) : (ltxCycle s t).ltx = ltxNext s t.ltx := by
  unfold ltxCycle; dsimp only; split <;> rfl
theorem ltxCycle_cmd (s t : State) :
    (ltxCycle s t).cmd = if txLastCycle s then { t.cmd with curOp := .none, done := true } else t.cmd := by
  unfold ltxCycle; dsimp only; split <;> rfl

/-- `lowRun_next` is at most LATCH_CYC (spec/42_transmit.md R156). -/
theorem lowRunNext_le (s : State) : lowRunNext s ≤ s.cfg.latchCyc := by
  unfold lowRunNext; split <;> omega

/-- Outside the BIT phase LTX never computes `led_o` from the frame (R155). -/
theorem ledLevel_of_not_bits (s : State) (h : s.ltx.txPhase ≠ .bits) : ledLevel s = .next false := by
  simp [ledLevel, h]

/-- While `txBit` is in range, `led_o` is the level the waveform rules give. -/
theorem ledLevel_eq_pattern (s : State) (h : s.ltx.txBit < frameBits s.cfg) : ledLevel s = .next (ledPattern s) := by
  unfold ledLevel ledPattern
  split
  · have hb : s.ltx.txBit / 8 < fbSize s := by unfold fbSize; unfold frameBits at h; omega
    simp only [frameBit, memRead_of_lt s _ hb, frameBitOf, bindNext_next]
    simp [*]
    rfl
  · simp [*]

/-- A driven state differs from the state it is driven from by `led_o` alone. -/
theorem driveLed_eq_next (t u : State) (h : driveLed t = .next u) :
    ∃ level, ledLevel t = .next level ∧ u = { t with ltx := { t.ltx with ledO := level } } := by
  obtain ⟨l, hl, hu⟩ := (bindNext_eq_next _ _ _).1 h
  exact ⟨l, hl, by simpa using hu.symm⟩

/-- LTX's invariant but for `led_o`, on the unit alone, with the operation executing. -/
abbrev LtxUnitOk (p : Params) (op : CurOp) (u : LtxUnit) : Prop :=
  (u.txPhase = .idle ↔ op ≠ .tx) ∧ u.txBit < frameBits p ∧ u.lowRun ≤ p.latchCyc ∧
    (u.txPhase = .idle → u.txCyc = 0) ∧
    (u.txPhase = .wait → u.txBit = 0 ∧ u.txCyc = 0 ∧ u.lowRun < p.latchCyc) ∧
    (u.txPhase = .bits → u.txCyc < p.tbitCyc) ∧
    (u.txPhase = .latch → u.txCyc < p.latchCyc ∧ u.txCyc ≤ u.lowRun)

/-- Legal parameters make every engine constant positive. -/
theorem params_positive {p : Params} (h : p.Ok) :
    0 < p.nPix ∧ 0 < p.tbitCyc ∧ 0 < p.latchCyc ∧ 0 < p.i2cHCyc ∧ 0 < p.stretchMax ∧ 0 < frameBits p := by
  obtain ⟨h1, h2, _, h4, h5, h6, h7, h8⟩ := h
  refine ⟨by omega, by omega, ?_, by omega, by omega, by unfold frameBits; omega⟩
  by_contra hc
  have : p.latchCyc = 0 := by omega
  rw [this] at h6; omega

/-- One cycle of a TX keeps LTX's invariant; the last latch cycle leaves it idle. -/
theorem ltxNext_ok (s : State) (hp : s.cfg.Ok) (h : LtxOk s) (hop : s.cmd.curOp = .tx) :
    LtxUnitOk s.cfg (if txLastCycle s then .none else .tx) (ltxNext s s.ltx) := by
  obtain ⟨_, htb, hla, _, _, hfb⟩ := params_positive hp
  obtain ⟨h1, h2, h3, h4, h5, h6, h7, h8⟩ := h
  have hlr := lowRunNext_le s
  have hph : s.ltx.txPhase ≠ .idle := by simp [h1, hop]
  cases hx : s.ltx.txPhase with
  | idle => exact absurd hx hph
  | wait =>
    have hl : txLastCycle s = false := by simp [txLastCycle, hx]
    obtain ⟨hb, hc, hr⟩ := h5 hx
    rw [hl]
    by_cases hw : s.cfg.latchCyc ≤ lowRunNext s
    · have e : ltxNext s s.ltx =
          { s.ltx with lowRun := lowRunNext s, txPhase := .bits, txBit := 0, txCyc := 0 } := by simp [ltxNext, hx, hw]
      rw [e]
      exact ⟨by simp, hfb, hlr, by simp, by simp, fun _ => htb, by simp⟩
    · have e : ltxNext s s.ltx = { s.ltx with lowRun := lowRunNext s } := by simp [ltxNext, hx, hw]
      rw [e]
      exact ⟨by simp [hx], h2, hlr, by simp [hx], fun _ => ⟨hb, hc, by simp only; omega⟩, by simp [hx], by simp [hx]⟩
  | bits =>
    have hl : txLastCycle s = false := by simp [txLastCycle, hx]
    rw [hl]
    by_cases hc : s.ltx.txCyc + 1 < s.cfg.tbitCyc
    · have e : ltxNext s s.ltx = { s.ltx with lowRun := lowRunNext s, txCyc := s.ltx.txCyc + 1 } := by
        simp [ltxNext, hx, hc]
      rw [e]
      exact ⟨by simp [hx], h2, hlr, by simp [hx], by simp [hx], fun _ => hc, by simp [hx]⟩
    · by_cases hb : s.ltx.txBit + 1 < frameBits s.cfg
      · have e : ltxNext s s.ltx =
            { s.ltx with lowRun := lowRunNext s, txBit := s.ltx.txBit + 1, txCyc := 0 } := by
          simp [ltxNext, hx, hc, hb]
        rw [e]
        exact ⟨by simp [hx], hb, hlr, by simp [hx], by simp [hx], fun _ => htb, by simp [hx]⟩
      · have e : ltxNext s s.ltx = { s.ltx with lowRun := lowRunNext s, txPhase := .latch, txCyc := 0 } := by
          simp [ltxNext, hx, hc, hb]
        rw [e]
        exact ⟨by simp, h2, hlr, by simp, by simp, by simp, fun _ => ⟨hla, Nat.zero_le _⟩⟩
  | latch =>
    obtain ⟨hc, hlow⟩ := h7 hx
    have hled : s.ltx.ledO = false := by simp [h8, ledPattern, hx]
    have hlow' : s.ltx.txCyc + 1 ≤ lowRunNext s := by simp [lowRunNext, hled]; omega
    by_cases hlt : s.ltx.txCyc + 1 < s.cfg.latchCyc
    · have hl : txLastCycle s = false := by simp [txLastCycle, hx]; omega
      have e : ltxNext s s.ltx = { s.ltx with lowRun := lowRunNext s, txCyc := s.ltx.txCyc + 1 } := by
        simp [ltxNext, hx, hlt]
      rw [hl, e]
      exact ⟨by simp [hx], h2, hlr, by simp [hx], by simp [hx], by simp [hx], fun _ => ⟨hlt, hlow'⟩⟩
    · have hl : txLastCycle s = true := by simp [txLastCycle, hx]; omega
      have e : ltxNext s s.ltx = { s.ltx with lowRun := lowRunNext s, txPhase := .idle, txCyc := 0 } := by
        simp [ltxNext, hx, hlt]
      rw [hl, e]
      exact ⟨by simp, h2, hlr, by simp, by simp, by simp, by simp⟩

/-- A cycle of an idle LTX keeps its invariant, for any operation but TX. -/
theorem ltxNext_idle_ok (s : State) (op : CurOp) (h : LtxOk s) (hs : s.cmd.curOp ≠ .tx) (hop : op ≠ .tx) :
    LtxUnitOk s.cfg op (ltxNext s s.ltx) := by
  obtain ⟨h1, h2, h3, h4, _⟩ := h
  have hx : s.ltx.txPhase = .idle := h1.2 hs
  have hlr := lowRunNext_le s
  simp only [ltxNext, hx]
  simp_all [LtxUnitOk]

/-- The acceptance cycle of a TX leaves LTX in its frame. -/
theorem ltxNext_start_ok (s : State) (hp : s.cfg.Ok) (h : LtxOk s) (hs : s.cmd.curOp ≠ .tx) :
    LtxUnitOk s.cfg .tx (ltxNext s (startFrame s)) := by
  obtain ⟨_, htb, hla, _, _, hfb⟩ := params_positive hp
  obtain ⟨h1, _⟩ := h
  have hx : s.ltx.txPhase = .idle := h1.2 hs
  have hlr := lowRunNext_le s
  simp only [ltxNext, hx, startFrame]
  by_cases hw : s.cfg.latchCyc ≤ lowRunNext s
  · simp only [if_pos hw]
    exact ⟨by simp, hfb, hlr, by simp, by simp, fun _ => htb, by simp⟩
  · simp only [if_neg hw]
    exact ⟨by simp, hfb, hlr, by simp, fun _ => ⟨rfl, rfl, Nat.lt_of_not_le hw⟩, by simp, by simp⟩

/-! ## MSYNC -/

/-- Counting keeps RAWTICKS in its register: no wrap (spec/44_millis.md R232). -/
theorem addTicks_toNat (raw : Word) (n : Nat) : (addTicks raw n).toNat = min maxTicks (raw.toNat + n) := by
  unfold addTicks maxTicks
  simp only [BitVec.toNat_ofNat]
  omega

/-- While ticks are masked none is counted (R233). -/
theorem ticksCounted_masked (i : CycleIn) (s : State) (h : s.txAct = true) : ticksCounted i s = 0 := by
  simp [ticksCounted, h]

/-- The latch is empty after every unmasked cycle (R235). -/
theorem tickPendNext_unmasked (i : CycleIn) (s : State) (h : s.txAct = false) : tickPendNext i s = false := by
  simp [tickPendNext, h]

/-- With depth 0 the latch stays empty (R234). -/
theorem tickPendNext_depth_zero (i : CycleIn) (s : State) (hd : s.cfg.tickPendDepth = 0)
    (hp : s.msync.tickPend = false) : tickPendNext i s = false := by
  simp [tickPendNext, hd, hp]

/-! ## RTCM -/

/-- RTCM's cycle writes RTCM and, at the end of a command, the command processor. -/
inductive RtcmEffect (t : State) : State → Prop where
  /-- RTCM goes on or waits; the command processor is not touched. -/
  | runs (r : RtcmUnit) : RtcmEffect t { t with rtcm := r }
  /-- The command ends. -/
  | ends (r : RtcmUnit) : RtcmEffect t (finishLong { t with rtcm := r })

theorem busFail_effect (e : BusError) (t : State) : RtcmEffect t (busFail e t) := .ends _

theorem sequenceEnd_effect (t : State) : RtcmEffect t (sequenceEnd t) := by
  unfold sequenceEnd
  split
  · exact busFail_effect _ t
  · split
    · split
      · exact .ends _
      · exact .ends _
    · exact .ends _

theorem goSegment_effect (k : Nat) (t : State) : RtcmEffect t (goSegment k t) := by
  unfold goSegment
  split
  · exact .runs _
  · exact sequenceEnd_effect t

/-- An effect on a state whose RTCM was touched first is an effect on the state itself. -/
theorem RtcmEffect.of_rtcm {t u : State} {r : RtcmUnit} (h : RtcmEffect { t with rtcm := r } u) : RtcmEffect t u := by
  cases h with
  | runs r' => exact .runs r'
  | ends r' => exact .ends r'

theorem segmentCycle_effect (i : CycleIn) (k : Nat) (g : Segment) (s t : State) :
    RtcmEffect t (segmentCycle i k g s t) := by
  unfold segmentCycle
  split
  · split
    · exact .runs _
    · unfold stretchTimeout
      split
      · exact busFail_effect _ t
      · split
        · exact .ends _
        · exact .ends _
  · split
    · exact .runs _
    · unfold segmentEnd
      split
      · exact goSegment_effect _ t
      · split
        · exact goSegment_effect _ t
        · exact busFail_effect _ t
      · split
        · exact (goSegment_effect _ _).of_rtcm
        · exact goSegment_effect _ t
      · exact (goSegment_effect _ _).of_rtcm
      · exact (goSegment_effect _ _).of_rtcm

/-- One cycle of RTCM, whatever it does. -/
theorem rtcmCycle_effect (i : CycleIn) (s t : State) : RtcmEffect t (rtcmCycle i s t) := by
  unfold rtcmCycle
  split
  · exact .runs _
  · split
    · exact .runs _
    · exact segmentCycle_effect _ _ _ s t

theorem RtcmEffect.cfg {t u : State} (h : RtcmEffect t u) : u.cfg = t.cfg := by cases h <;> rfl

theorem RtcmEffect.fmem {t u : State} (h : RtcmEffect t u) : u.fmem = t.fmem := by cases h <;> rfl

theorem RtcmEffect.ltx {t u : State} (h : RtcmEffect t u) : u.ltx = t.ltx := by cases h <;> rfl

theorem RtcmEffect.msync {t u : State} (h : RtcmEffect t u) : u.msync = t.msync := by cases h <;> rfl

@[simp] theorem rtcmCycle_cfg (i : CycleIn) (s t : State) : (rtcmCycle i s t).cfg = t.cfg :=
  (rtcmCycle_effect i s t).cfg

@[simp] theorem rtcmCycle_fmem (i : CycleIn) (s t : State) : (rtcmCycle i s t).fmem = t.fmem :=
  (rtcmCycle_effect i s t).fmem

@[simp] theorem rtcmCycle_ltx (i : CycleIn) (s t : State) : (rtcmCycle i s t).ltx = t.ltx :=
  (rtcmCycle_effect i s t).ltx

@[simp] theorem rtcmCycle_msync (i : CycleIn) (s t : State) : (rtcmCycle i s t).msync = t.msync :=
  (rtcmCycle_effect i s t).msync

/-- An idle RTCM does nothing (spec/43_rtc.md R182). -/
theorem rtcmCycle_idle (i : CycleIn) (s t : State) (h : s.rtcm.rtSeg = none) : rtcmCycle i s t = t := by
  simp [rtcmCycle, h]

end Sys2Proof.Machine
end

