-- ==== Sys2Proof/Laws/PerInstr.lean ====
section
/-! SUPPORT. Statements about every command, one lemma per constructor: the encoder's word has the match of the command's row
under the row's mask (spec/30_encoding.md R97), whatever the operands. -/

namespace Sys2Proof.Laws.EncodingSelectsRow

/-- The word the encoder writes selects the command's own row. -/
def Statement (i : Instr) : Prop := rowMatches (encode i) i.row.1 i.row.2 = true

theorem nop : Statement .nop := by unfold Statement; decide

theorem tx : Statement .tx := by unfold Statement; decide

theorem clear : Statement .clear := by unfold Statement; decide

theorem rtcrd : Statement .rtcrd := by unfold Statement; decide

/-- Format I: no index reaches the bits its row fixes. -/
theorem formatI_masked (op : BitVec 4) (i : Nat) : formatI op i &&& 0xFFFF0000 = place op 28 := by
  simp only [formatI, place]
  ext k hk
  interval_cases k <;> simp

theorem pset (i : Nat) : Statement (.pset i) := by
  simp only [Statement, encode, Instr.row, rowMatches, formatI_masked]; decide

theorem padd (i : Nat) : Statement (.padd i) := by
  simp only [Statement, encode, Instr.row, rowMatches, formatI_masked]; decide

theorem pget (p : Nat) : Statement (.pget p) := by
  simp only [Statement, encode, Instr.row, rowMatches, formatI_masked]; decide

theorem setoff (o : Nat) : Statement (.setoff o) := by
  simp only [Statement, encode, Instr.row, rowMatches, formatI_masked]; decide

theorem rtcwr (h m s : Nat) : Statement (.rtcwr h m s) := by
  simp only [Statement, encode, Instr.row, rowMatches, formatT, place, beq_iff_eq]
  ext k hk
  interval_cases k <;> simp

theorem recal (c : Bool) : Statement (.recal c) := by cases c <;> unfold Statement <;> decide

end Sys2Proof.Laws.EncodingSelectsRow
end

