-- ==== Sys2Proof/Laws/Rtcm.lean ====
section
/-! SUPPORT. RTCM keeps its part of the invariant: every way a segment or a command can end. -/

namespace Sys2Proof.Machine

/-! ## Values -/

/-- A valid BCD byte decodes to at most its limit (spec/43_rtc.md R199). -/
theorem bcdDec_le_of_valid (x : Byte) (n : Nat) (h : bcdValid x n = true) : bcdDec x ≤ n := by
  simp [bcdValid] at h; exact h.2

/-- A checked read decodes to a time in range. -/
theorem rxTime_inRange (x : RxBytes) (h : rxValid x = true) : (rxTime x).InRange := by
  simp only [rxValid, Bool.and_eq_true] at h
  have h1 := bcdDec_le_of_valid _ _ h.1.1
  have h2 := bcdDec_le_of_valid _ _ h.1.2
  have h3 := bcdDec_le_of_valid _ _ h.2
  refine ⟨?_, ?_, ?_⟩ <;> simp [rxTime] <;> omega

/-- A field that fits below bit 24 keeps the word below 2^24. -/
theorem place_lt (v : Byte) (lo : Nat) (h : lo ≤ 16) : (place v lo).toNat < 2 ^ 24 := by
  have hv := v.isLt
  have : (place v lo).toNat ≤ v.toNat * 2 ^ lo := by
    simp only [place, BitVec.toNat_shiftLeft, BitVec.toNat_setWidth, Nat.shiftLeft_eq]
    refine (Nat.mod_le _ _).trans (Nat.mul_le_mul_right _ (Nat.mod_le _ _))
  have h2 : 2 ^ lo ≤ 2 ^ 16 := Nat.pow_le_pow_right (by omega) h
  calc _ ≤ v.toNat * 2 ^ lo := this
    _ ≤ 255 * 2 ^ 16 := Nat.mul_le_mul (by omega) h2
    _ < 2 ^ 24 := by norm_num

/-- Three bytes in the low places leave bits 31:24 zero. -/
theorem three_places_lt (a b c : Byte) : (place a 16 ||| place b 8 ||| place c 0).toNat < 2 ^ 24 := by
  simp only [BitVec.toNat_or]
  exact Nat.or_lt_two_pow (Nat.or_lt_two_pow (place_lt a 16 (by omega)) (place_lt b 8 (by omega)))
    (place_lt c 0 (by omega))

theorem rxRaw_lt (x : RxBytes) : (rxRaw x).toNat < 2 ^ 24 := three_places_lt _ _ _

theorem colorWord_lt (c : Color) : (colorWord c).toNat < 2 ^ 24 := three_places_lt _ _ _

theorem timeInRange_held (h m s : Nat) (hr : timeInRange h m s = true) :
    TimeOfDay.InRange { hour := BitVec.ofNat 5 h, min := BitVec.ofNat 6 m, sec := BitVec.ofNat 6 s } := by
  simp [timeInRange] at hr
  refine ⟨?_, ?_, ?_⟩ <;> simp <;> omega

/-! ## Segment lists -/

/-- Every operation's list ends in STOP's three segments, so it is empty or has at least three. -/
theorem segments_length (s : State) :
    (segments s).length = if s.cmd.curOp = .rtcrd then 116 else if s.cmd.curOp = .rtcwr then 95 else 0 := by
  unfold segments segmentsOf
  cases s.cmd.curOp <;> simp <;> rfl

/-- The first segment of both lists is START's. -/
theorem segments_zero (s : State) (h : isRtcOp s.cmd.curOp = true) : (segments s)[0]? = some startSeg := by
  unfold segments segmentsOf
  cases hop : s.cmd.curOp <;> simp_all [isRtcOp] <;> rfl

/-- The segment list follows the operation and the held time. -/
theorem segments_congr (s t : State) (hop : t.cmd.curOp = s.cmd.curOp) (hh : t.rtcm.held = s.rtcm.held) :
    segments t = segments s := by
  simp [segments, hop, hh]

/-- In a segment of the list, `segmentOk` is `SegmentOk` of it. -/
theorem segmentOk_iff (s : State) (k : Nat) (g : Segment) (hk : s.rtcm.rtSeg = some k) (hg : (segments s)[k]? = some g) :
    segmentOk s = true ↔ SegmentOk s k g := by
  unfold segmentOk
  rw [hk]
  simp only []
  rw [hg]
  exact decide_eq_true_iff

/-! ## Ends of a command -/

/-- The part of RTCM's invariant about registers, which says nothing of the segment it is in. -/
abbrev RtcmRegsOk (t : State) : Prop :=
  t.rtcm.time.InRange ∧ t.rtcm.held.InRange ∧ t.rtcm.rtcRaw.toNat < 2 ^ 24 ∧
    BusFieldsOk t.rtcm ∧ pendingErrorOk t.rtcm = true ∧
    (isRtcOp t.cmd.curOp = true → t.rtcm.busErr = false) ∧ (t.cmd.curOp = .rtcrd → t.rtcm.secChg = false)

theorem rtcmRegsOk_of_rtcmOk {t : State} (h : RtcmOk t) : RtcmRegsOk t := h.2.2.2.2.2

/-- A bus error leaves RTCM's invariant (spec/60_exceptions.md R265). -/
theorem busFail_rtcmOk (e : BusError) (t : State) (hp : t.cfg.Ok) (hc : e.code ≠ .none) (h : RtcmRegsOk t) :
    RtcmOk (busFail e t) := by
  obtain ⟨_, _, _, hi, hst, _⟩ := params_positive hp
  obtain ⟨h6, h7, h8, _⟩ := h
  exact ⟨by simp [isRtcOp], fun _ => ⟨rfl, rfl, rfl, rfl, rfl⟩, rfl, hi, hst, h6, h7, h8, ⟨by simp, fun _ => hc⟩, rfl,
    by simp [isRtcOp], by simp⟩

theorem storeRaw_rtcmRegsOk (t : State) (h : RtcmRegsOk t) : RtcmRegsOk (storeRaw t) := by
  obtain ⟨h6, h7, _, h9⟩ := h
  exact ⟨h6, h7, rxRaw_lt _, h9⟩

/-- A successful read leaves RTCM's invariant (spec/43_rtc.md R203). -/
theorem readSuccess_rtcmOk (t : State) (hp : t.cfg.Ok) (hv : rxValid t.rtcm.rtRx = true) (h : RtcmRegsOk t) :
    RtcmOk (readSuccess t) := by
  obtain ⟨_, _, _, hi, hst, _⟩ := params_positive hp
  obtain ⟨_, h7, _⟩ := h
  exact ⟨by simp [isRtcOp], fun _ => ⟨rfl, rfl, rfl, rfl, rfl⟩, rfl, hi, hst, rxTime_inRange _ hv, h7, rxRaw_lt _,
    ⟨by simp, by simp⟩, rfl, by simp [isRtcOp], by simp⟩

/-- A successful write leaves RTCM's invariant (R207). -/
theorem writeSuccess_rtcmOk (t : State) (hp : t.cfg.Ok) (h : RtcmRegsOk t) : RtcmOk (writeSuccess t) := by
  obtain ⟨_, _, _, hi, hst, _⟩ := params_positive hp
  obtain ⟨h6, h7, h8, _⟩ := h
  exact ⟨by simp [isRtcOp], fun _ => ⟨rfl, rfl, rfl, rfl, rfl⟩, rfl, hi, hst, h6, h7, h8, ⟨by simp, by simp⟩, rfl,
    by simp [isRtcOp], by simp⟩

/-- The pending error of a running recovery is a real code. -/
theorem code_ne_none_of_pending (r : RtcmUnit) (e : BusError) (h : pendingErrorOk r = true) (he : r.rtErr = some e) :
    e.code ≠ .none := by
  simp [pendingErrorOk, he] at h
  rcases h with h | h <;> simp [h]

theorem sequenceEnd_rtcmOk (t : State) (hp : t.cfg.Ok) (h : RtcmRegsOk t) : RtcmOk (sequenceEnd t) := by
  unfold sequenceEnd
  split
  · rename_i e he
    exact busFail_rtcmOk e t hp (code_ne_none_of_pending t.rtcm e h.2.2.2.2.1 he) h
  · split
    · split
      · exact readSuccess_rtcmOk t hp (by assumption) h
      · exact busFail_rtcmOk _ _ hp (by simp) (storeRaw_rtcmRegsOk t h)
    · exact writeSuccess_rtcmOk t hp h

/-! ## Going on -/

/-- Entering a segment of the operation's list keeps RTCM's invariant. -/
theorem enterSegment_rtcmOk (k : Nat) (g : Segment) (t : State) (hp : t.cfg.Ok) (hop : isRtcOp t.cmd.curOp = true)
    (hg : (segments t)[k]? = some g) (hstop : t.rtcm.rtErr ≠ none → stopIndex t ≤ k) (h : RtcmRegsOk t) :
    RtcmOk { t with rtcm := enterSegment k g t.rtcm } := by
  obtain ⟨_, _, _, hi, hst, _⟩ := params_positive hp
  obtain ⟨h6, h7, h8, h9, h10, h11⟩ := h
  refine ⟨by simp [hop], by simp, ?_, hi, hst, h6, h7, h8, h9, h10, h11⟩
  have hg' : (segments { t with rtcm := enterSegment k g t.rtcm })[k]? = some g := hg
  simp only [segmentOk, enterSegment_rtSeg, hg', decide_eq_true_eq]
  exact ⟨rfl, rfl, fun _ => rfl, hstop⟩

theorem goSegment_rtcmOk (k : Nat) (t : State) (hp : t.cfg.Ok) (hop : isRtcOp t.cmd.curOp = true)
    (hstop : t.rtcm.rtErr ≠ none → stopIndex t ≤ k) (h : RtcmRegsOk t) : RtcmOk (goSegment k t) := by
  unfold goSegment
  split
  · rename_i g hg
    exact enterSegment_rtcmOk k g t hp hop hg hstop h
  · exact sequenceEnd_rtcmOk t hp h

/-- The codes a sent byte's NACK can report. -/
def nackCodes (g : Segment) : Bool :=
  match g.atEnd with
  | .acknowledge c => decide (c = .addrNack) || decide (c = .dataNack)
  | _ => true

/-- In the list of a byte sent, a NACK is reported as ADDR_NACK or DATA_NACK when it is given as one. -/
theorem sendBits_nackCodes (ph : BusPhase) (x : Byte) (n : Nat) : ∀ g ∈ sendBits ph x n, nackCodes g = true := by
  induction n with
  | zero => simp [sendBits]
  | succ n ih =>
    intro g hg
    simp only [sendBits, sendBit, List.cons_append, List.nil_append, List.mem_cons] at hg
    rcases hg with rfl | rfl | hg
    · rfl
    · cases x.getLsbD n <;> rfl
    · exact ih g hg

theorem loading_nackCodes (x : Byte) (l : List Segment) (h : ∀ g ∈ l, nackCodes g = true) :
    ∀ g ∈ loading x l, nackCodes g = true := by
  cases l with
  | nil => simp [loading]
  | cons a l =>
    intro g hg
    simp only [loading, List.mem_cons] at hg
    rcases hg with rfl | hg
    · exact h a (by simp)
    · exact h g (by simp [hg])

theorem sendByte_nackCodes (ph : BusPhase) (x : Byte) (c : BusCode) (hc : c = .addrNack ∨ c = .dataNack) :
    ∀ g ∈ sendByte ph x c, nackCodes g = true := by
  intro g hg
  simp only [sendByte, List.mem_append, ackList, List.mem_cons, List.not_mem_nil, or_false] at hg
  rcases hg with hg | rfl | rfl
  · exact loading_nackCodes _ _ (sendBits_nackCodes ph x 8) g hg
  · rfl
  · rcases hc with rfl | rfl <;> rfl

/-- Every NACK of both lists is reported as ADDR_NACK or DATA_NACK (spec/43_rtc.md R195). -/
theorem segments_nackCodes (s : State) (g : Segment) (hg : g ∈ segments s) : nackCodes g = true := by
  unfold segments segmentsOf at hg
  cases hop : s.cmd.curOp <;> simp only [hop] at hg
  · simp at hg
  · simp at hg
  · have : ∀ g ∈ readSegs, nackCodes g = true := by decide
    exact this g hg
  · simp only [writeSegs, List.mem_append] at hg
    have hsb := fun (x : Byte) (c : BusCode) (hc : c = .addrNack ∨ c = .dataNack) (h : g ∈ sendByte .write x c) =>
      sendByte_nackCodes .write x c hc g h
    rcases hg with (((((hg | hg) | hg) | hg) | hg) | hg) | hg
    · have : ∀ g ∈ startList, nackCodes g = true := by decide
      exact this g hg
    · exact hsb _ _ (.inl rfl) hg
    · exact hsb _ _ (.inr rfl) hg
    · exact hsb _ _ (.inr rfl) hg
    · exact hsb _ _ (.inr rfl) hg
    · exact hsb _ _ (.inr rfl) hg
    · have : ∀ g ∈ stopList .write, nackCodes g = true := by decide
      exact this g hg

/-- The end of a segment keeps RTCM's invariant, whatever the sample. -/
theorem segmentEnd_rtcmOk (k : Nat) (g : Segment) (sample : Bool) (t : State) (hp : t.cfg.Ok)
    (hop : isRtcOp t.cmd.curOp = true) (hg : (segments t)[k]? = some g)
    (hstop : t.rtcm.rtErr ≠ none → stopIndex t ≤ k) (h : RtcmRegsOk t) : RtcmOk (segmentEnd k g sample t) := by
  have hnext : t.rtcm.rtErr ≠ none → stopIndex t ≤ k + 1 := fun hr => Nat.le_succ_of_le (hstop hr)
  unfold segmentEnd
  split
  · exact goSegment_rtcmOk _ t hp hop hnext h
  · split
    · exact goSegment_rtcmOk _ t hp hop hnext h
    · exact busFail_rtcmOk _ t hp (by simp) h
  · rename_i code hc
    split
    · have hcode := segments_nackCodes t g (List.mem_of_getElem? hg)
      simp only [nackCodes, hc] at hcode
      obtain ⟨h6, h7, h8, h9, _, h11⟩ := h
      exact goSegment_rtcmOk _ _ hp hop (fun _ => le_rfl) ⟨h6, h7, h8, h9, hcode, h11⟩
    · exact goSegment_rtcmOk _ t hp hop hnext h
  · exact goSegment_rtcmOk _ _ hp hop hnext h
  · exact goSegment_rtcmOk _ _ hp hop hnext h

/-- A timeout keeps RTCM's invariant. -/
theorem stretchTimeout_rtcmOk (k : Nat) (g : Segment) (t : State) (hp : t.cfg.Ok) (h : RtcmRegsOk t) :
    RtcmOk (stretchTimeout k g t) := by
  unfold stretchTimeout
  split
  · rename_i e he
    exact busFail_rtcmOk e t hp (code_ne_none_of_pending t.rtcm e h.2.2.2.2.1 he) h
  · split
    · exact busFail_rtcmOk _ _ hp (by simp) (storeRaw_rtcmRegsOk t h)
    · exact busFail_rtcmOk _ _ hp (by simp) h

/-- One cycle of RTCM keeps its invariant, when the cycle's other writes left RTCM, the operation and the parameters as
they were. -/
theorem rtcmCycle_rtcmOk (i : CycleIn) (s t : State) (hp : s.cfg.Ok) (hcfg : t.cfg = s.cfg)
    (hop : t.cmd.curOp = s.cmd.curOp) (hr : t.rtcm = s.rtcm) (h : RtcmOk s) : RtcmOk (rtcmCycle i s t) := by
  have hseg : segments t = segments s := segments_congr s t hop (by rw [hr])
  have hlen : stopIndex t = stopIndex s := by simp [stopIndex, hseg]
  have ht : RtcmOk t := by
    obtain ⟨h1, h2, h3, h4⟩ := h
    refine ⟨by rw [hop, hr]; exact h1, by rw [hr]; exact h2, ?_, by rw [hcfg, hr, hop]; exact h4⟩
    simpa only [segmentOk, SegmentOk, hr, hseg, hlen] using h3
  unfold rtcmCycle
  split
  · exact ht
  · rename_i k hk
    split
    · exact ht
    · rename_i g hg
      have hrtc : isRtcOp t.cmd.curOp = true := by rw [hop]; exact h.1.2 (by simp [hk])
      have hseg' : SegmentOk s k g := (segmentOk_iff s k g hk hg).1 h.2.2.1
      have hstop : t.rtcm.rtErr ≠ none → stopIndex t ≤ k := by rw [hr, hlen]; exact hseg'.2.2.2
      unfold segmentCycle
      split
      · rename_i hw
        split
        · rename_i hlt
          obtain ⟨h1, h2, h3, h4, h5, h6⟩ := ht
          refine ⟨h1, fun hn => ?_, ?_, h4, by rw [hcfg]; exact hlt, h6⟩
          · simp [hr, hk] at hn
          · have hhigh : g.high = true := by simp [isWaitCycle] at hw; exact hw.1.1
            have hg' : (segments { t with rtcm := { t.rtcm with rtWait := s.rtcm.rtWait + 1 } })[k]? = some g := by
              rw [← hg]; exact congrArg (·[k]?) hseg
            have hk' : t.rtcm.rtSeg = some k := by rw [hr, hk]
            refine (segmentOk_iff { t with rtcm := { t.rtcm with rtWait := s.rtcm.rtWait + 1 } } k g hk' hg').2 ⟨by rw [hr]; exact hseg'.1, by rw [hr]; exact hseg'.2.1, by simp [hhigh], hstop⟩
        · exact stretchTimeout_rtcmOk k g t (hcfg ▸ hp) (rtcmRegsOk_of_rtcmOk ht)
      · split
        · rename_i hlt
          obtain ⟨h1, h2, h3, h4, h5, h6⟩ := ht
          refine ⟨h1, fun hn => ?_, ?_, by rw [hcfg]; exact hlt, h5, h6⟩
          · simp [hr, hk] at hn
          · exact h3
        · exact segmentEnd_rtcmOk k g _ t (hcfg ▸ hp) hrtc (hseg ▸ hg) hstop (rtcmRegsOk_of_rtcmOk ht)

end Sys2Proof.Machine
end

