-- ==== Sys2Proof/Tests/Slice0.lean ====
section
/-! SUPPORT. Tests by the spec's worked examples, one cycle each; smoke tests of the well-formedness checks; the decoding of
every constructor from a word written out by hand; and for every statement with hypotheses a witness that meets them. -/

namespace Sys2Proof.Tests

open Sys2Proof Sys2Proof.Machine

/-! ## Helpers -/

/-- The next state, if there is one. -/
def nextOf (o : Host.Outcome State Fault Refusal) : Option State :=
  match o with
  | .next t => some t
  | .fault _ => none
  | .refused _ => none

/-- The next state, or the state given where there is none. -/
def orElse (o : Host.Outcome State Fault Refusal) (s : State) : State := (nextOf o).getD s

/-- The state after one cycle. -/
def after (s : State) : State := orElse (step s) s

theorem eq_next_of_isSome (o : Host.Outcome State Fault Refusal) (s : State) (h : (nextOf o).isSome = true) :
    o = .next (orElse o s) := by
  cases o <;> simp_all [nextOf, orElse]

theorem step_after (s : State) (h : (nextOf (step s)).isSome = true) : step s = .next (after s) :=
  eq_next_of_isSome _ s h

/-- The least parameters: one pixel, one cycle each. -/
def least : Params where
  fClkHz := 1
  nPix := 1
  t0hCyc := 0
  t1hCyc := 1
  tbitCyc := 2
  latchCyc := 2
  i2cHCyc := 1
  stretchMax := 2
  tickPendDepth := 1
  smooth := .reference

/-- An idle block. -/
def idleBlock : State := State.resetWith least

/-- An idle block of the reference configuration with OFFSET 15 and an ARG, as in R132's example. -/
def board (arg : Word) : State :=
  { State.reset with
    cmd := { State.reset.cmd with arg := arg }
    fmem := { State.reset.fmem with offset := 15 } }

/-- A block in the first cycle of a TX's frame. -/
def sending : State :=
  { idleBlock with
    cmd := { idleBlock.cmd with curOp := .tx }
    ltx := { idleBlock.ltx with txPhase := .bits, lowRun := 2 } }

/-- A block in segment `k` of an RTC command. -/
def onBus (op : CurOp) (k : Nat) (e : Option BusError) : State :=
  { idleBlock with
    cmd := { idleBlock.cmd with curOp := op }
    rtcm := { idleBlock.rtcm with
      rtSeg := some k
      rtErr := e
      sclOe := !(((segmentsOf op TimeOfDay.zero)[k]?).getD startSeg).high
      sdaOe := (((segmentsOf op TimeOfDay.zero)[k]?).getD startSeg).sdaLow } }

/-- The state with the inputs of its next cycles. -/
def fed (s : State) (l : List CycleIn) : State := { s with inputs := l }

/-- A cycle that writes a command word. -/
def cmdCycle (w : Word) : CycleIn := withWrite quietCycle 0 w

/-- A cycle in which another agent holds SCL low. -/
def stretchCycle : CycleIn := { quietCycle with envSclLow := true }

/-- A cycle in which another agent holds SDA low. -/
def sdaLowCycle : CycleIn := { quietCycle with envSdaLow := true }

/-- A cycle with a tick. -/
def tickCycle : CycleIn := { quietCycle with tick := true }

/-- A reset cycle. -/
def resetCycle : CycleIn := { quietCycle with rst := true }

/-- One cycle per entry of a script, for half bits of one cycle. -/
def scripted (l : List Bool) : List CycleIn := l.map fun b => { quietCycle with envSdaLow := b }

/-! ## Well-formedness: an ill-formed term for each check -/

theorem test_wf_refuses_wide_pset : (Instr.pset 65536).wf = false := by decide
theorem test_wf_refuses_wide_padd : (Instr.padd 65536).wf = false := by decide
theorem test_wf_refuses_wide_pget : (Instr.pget 65536).wf = false := by decide
theorem test_wf_refuses_wide_setoff : (Instr.setoff 65536).wf = false := by decide
theorem test_wf_refuses_wide_hour : (Instr.rtcwr 32 0 0).wf = false := by decide
theorem test_wf_refuses_wide_minute : (Instr.rtcwr 0 64 0).wf = false := by decide
theorem test_wf_refuses_wide_second : (Instr.rtcwr 0 0 64).wf = false := by decide
theorem test_params_refuse_no_clock : ¬Params.Ok { least with fClkHz := 0 } := by decide
theorem test_params_refuse_no_pixel : ¬Params.Ok { least with nPix := 0 } := by decide
theorem test_params_refuse_many_pixels : ¬Params.Ok { least with nPix := 65536 } := by decide
theorem test_params_refuse_equal_pulses : ¬Params.Ok { least with t0hCyc := 1 } := by decide
theorem test_params_refuse_short_bit : ¬Params.Ok { least with tbitCyc := 1 } := by decide
theorem test_params_refuse_short_latch : ¬Params.Ok { Params.reference with latchCyc := 199 } := by decide
theorem test_params_refuse_no_half_bit : ¬Params.Ok { least with i2cHCyc := 0 } := by decide
theorem test_params_refuse_no_stretch : ¬Params.Ok { least with stretchMax := 0 } := by decide
theorem test_reference_params_ok : Params.reference.Ok ∧ Params.reference.NominalPulses := by decide
theorem test_nominal_refuses_long_zero : ¬Params.NominalPulses { Params.reference with t0hCyc := 9 } := by decide

/-! ## Decoding, from words written bit by bit (R91 to R94, R97; examples of R132, R135, R205) -/

theorem test_decode_nop : decode 0b0000_0000000000000000000000000000 = .ok .nop := by decide
theorem test_decode_tx : decode 0b0001_0000000000000000000000000000 = .ok .tx := by decide
theorem test_decode_clear : decode 0b0010_0000000000000000000000000000 = .ok .clear := by decide
theorem test_decode_pset : decode 0b0011_000000000000_0000000000110010 = .ok (.pset 50) := by decide
theorem test_decode_padd : decode 0b0100_000000000000_1000000000000001 = .ok (.padd 32769) := by decide
theorem test_decode_pget : decode 0b0101_000000000000_0000000000111100 = .ok (.pget 60) := by decide
theorem test_decode_setoff : decode 0b0110_000000000000_0000000000111011 = .ok (.setoff 59) := by decide
theorem test_decode_rtcrd : decode 0b0111_0000000000000000000000000000 = .ok .rtcrd := by decide
theorem test_decode_rtcwr : decode 0b1000_0000000_10111_00_111011_00_111010 = .ok (.rtcwr 23 59 58) := by decide
theorem test_decode_recal : decode 0b1001_000000000000000000000000000_1 = .ok (.recal true) := by decide
theorem test_decode_recal_off : decode 0b1001_000000000000000000000000000_0 = .ok (.recal false) := by decide
theorem test_decode_reserved_opcode : decode 0xA0000000 = .error .reservedOpcode := by decide
theorem test_decode_reserved_bit : decode 0x80004000 = .error .reservedBits := by decide
theorem test_table_word : decodeTableWord 32 0x80173B3A = some (.rtcwr 23 59 58) := by decide

/-! ## The spec's worked examples, one cycle each -/

/-- R124: STATUS 0x329C becomes 0x301C. -/
theorem test_nop_clears_rej :
    let s := { idleBlock with
      cmd := { idleBlock.cmd with done := true, rej := true, rejCode := .illegal }
      rtcm := { idleBlock.rtcm with busErr := true, busPhase := .read, busCode := .arbLost } }
    statusWord s = 0x329C ∧ statusWord (after (fed s [cmdCycle 0])) = 0x301C := by decide

/-- R132: slot 5 takes G 0x20, R 0x10, B 0x30. -/
theorem test_pset_example :
    (after (fed (board 0x00102030) [cmdCycle 0x30000032])).fmem.fb.cells = [(15, 0x20), (16, 0x10), (17, 0x30)] := by
  decide

/-- R133: G 0xFF, R 0xFF, B 0x31. -/
theorem test_padd_example :
    let s := after (fed (board 0x00102030) [cmdCycle 0x30000032])
    let u := after (fed { s with cmd := { s.cmd with arg := 0x00F0FF01 } } [cmdCycle 0x40000032])
    u.fmem.fb.cells = [(15, 0xFF), (16, 0xFF), (17, 0x31)] := by decide

/-- R134: PGET 5 gives 0x00FFFF31. -/
theorem test_pget_example :
    let s := { board 0 with fmem := { (board 0).fmem with fb := { cells := [(15, 0xFF), (16, 0xFF), (17, 0x31)] } } }
    (after (fed s [cmdCycle 0x50000005])).fmem.result = 0x00FFFF31 := by decide

/-- R134: PGET 60 with 60 pixels is rejected with ARG, REJCODE 3. -/
theorem test_pget_out_of_range : statusWord (after (fed State.reset [cmdCycle 0x5000003C])) = 0x380 := by decide

/-- R131: two pixels cleared. -/
theorem test_clear_example :
    let s := { State.resetWith { least with nPix := 2 } with
      fmem := { idleBlock.fmem with fb := { cells := [(0, 0x01), (1, 0xF0), (3, 0xFF), (4, 0x30), (5, 0xFF)] } } }
    (after (fed s [cmdCycle 0x20000000])).fmem.fb.cells = [] := by decide

/-- R135: SETOFF 59, after which logical pixel 1 is slot 0. -/
theorem test_setoff_example :
    let t := after (fed State.reset [cmdCycle 0x6000003B])
    t.fmem.offset = 59 ∧ phys t 1 = 0 := by decide

/-- R238: CALIB 1000 and 16 ticks give CALIB 508 and RAWTICKS 0. -/
theorem test_recal_example :
    let s := { idleBlock with msync := { idleBlock.msync with rawTicks := 16 } }
    let t := after (fed s [cmdCycle 0x90000001])
    t.msync.calib = 508 ∧ t.msync.rawTicks = 0 := by decide

/-- R240: the tick of the cycle that accepts RECAL 1 starts the new second. -/
theorem test_recal_with_tick :
    let s := { idleBlock with msync := { idleBlock.msync with rawTicks := 16 } }
    let t := after (fed s [{ cmdCycle 0x90000001 with tick := true }])
    t.msync.calib = 508 ∧ t.msync.rawTicks = 1 := by decide

/-- R150, R153: accepted with the line low long enough, the first bit is high in the next cycle if it is a 1. -/
theorem test_tx_starts :
    let s := { State.reset with
      fmem := { State.reset.fmem with fb := { cells := [(0, 0x80)] } }
      ltx := { State.reset.ltx with lowRun := 1000 } }
    let t := after (fed s [cmdCycle 0x10000000])
    t.ltx.ledO = true ∧ statusWord t = 0x3 := by decide

/-- R201: the last cycle of a read of 14:30:00 after 14:29:59. -/
theorem test_rtcrd_example :
    let b := onBus .rtcrd 115 none
    let s := { b with rtcm := { b.rtcm with
      time := { hour := 14, min := 29, sec := 59 }, rtRx := { sec := 0x00, min := 0x30, hour := 0x14 } } }
    let t := after (fed s [quietCycle])
    timeWord t.rtcm.time = 0x000E1E00 ∧ t.rtcm.rtcRaw = 0x00143000 ∧ t.rtcm.secChg = true ∧ statusWord t = 0x24 := by
  decide

/-- R205: the bytes 0xD0, 0x00, 0x58, 0x59, 0x23. -/
theorem test_rtcwr_example : writtenBytes 23 59 58 = [0xD0, 0x00, 0x58, 0x59, 0x23] := by decide

/-- R205: RTCWR 24:00:00 is rejected with ARG, and with bit 27 set it is ILLEGAL (R262). -/
theorem test_rtcwr_rejected :
    statusWord (after (fed idleBlock [cmdCycle 0x80180000])) = 0x380 ∧
      statusWord (after (fed idleBlock [cmdCycle 0x88180000])) = 0x280 := by decide

/-- R61: INFO reads N_PIX, and the word placed by the host's test runs in the next step. -/
theorem test_placed_word_runs :
    regRead State.reset 10 = 60 ∧ (after (State.reset.withFetchWord 32 0x90000000)).cmd.done = true := by decide

/-! ## Invariant of the states the witnesses use -/

/-- The parts of the invariant, to be evaluated. -/
def partsOk (s : State) : Bool :=
  decide s.cfg.Ok && decide (CmdOk s) && decide s.fmem.fb.wf && (s.fmem.fb.cells.all fun c => decide (c.1 < fbSize s)) &&
    decide (s.fmem.offset.toNat < s.cfg.nPix) && decide (s.fmem.result.toNat < 2 ^ 24) &&
    decide (LtxOk s) && decide (RtcmOk s) && decide (MsyncOk s)

theorem inv_of_parts (s : State) (h : partsOk s = true) : s.Inv := by
  simp only [partsOk, Bool.and_eq_true, decide_eq_true_eq, List.all_eq_true] at h
  obtain ⟨⟨⟨⟨⟨⟨⟨⟨h1, h2⟩, h3⟩, h4⟩, h5⟩, h6⟩, h7⟩, h8⟩, h9⟩ := h
  exact ⟨h1, h2, ⟨h3, h4, h5, h6⟩, h7, h8, h9⟩

/-- The invariant does not look at the inputs to come. -/
theorem fed_inv (s : State) (l : List CycleIn) (h : s.Inv) : (fed s l).Inv :=
  ⟨h.cfgOk, h.cmdOk, h.fmemOk, h.ltxOk, h.rtcmOk, h.msyncOk⟩

theorem idleBlock_inv (l : List CycleIn) : (fed idleBlock l).Inv := fed_inv _ _ (inv_of_parts _ (by decide))

theorem sending_inv (l : List CycleIn) : (fed sending l).Inv := fed_inv _ _ (inv_of_parts _ (by decide))

theorem reset_reachable : Reachable State.reset := .reset Params.reference 0 [] 0 (by decide)

/-! ## Witnesses: hypotheses of the statements, met together -/

theorem witness_DecodeOfEncode :
    (Instr.pset 65535).wf = true ∧ (Instr.padd 65535).wf = true ∧ (Instr.pget 65535).wf = true ∧
      (Instr.setoff 65535).wf = true ∧ (Instr.rtcwr 31 63 63).wf = true ∧ (Instr.recal true).wf = true := by decide

theorem witness_EncodeOfDecode : decode 0x801F3F3F = .ok (.rtcwr 31 63 63) ∧ decode 0x6000FFFF = .ok (.setoff 65535) := by
  decide

theorem witness_IllegalWordsAreTheReservedOnes :
    decode 0xF0000000 = .error .reservedOpcode ∧ decode 0x98000000 = .error .reservedBits ∧
      decode 0x00000001 = .error .reservedBits ∧ decode 0x3000FFFF = .ok (.pset 65535) ∧
      idleBlock.cmd.curOp = .none := by decide

/-- One write per code: while busy, a reserved opcode, an index just out of range. -/
theorem witness_RejectedWriteChangesOnlyRej :
    (cmdCycle 0xA0000000).rst = false ∧ (cmdCycle 0xA0000000).hReq = 2 ∧ (cmdCycle 0xA0000000).hAddr = 0 ∧
      rejection sending (cmdCycle 0xA0000000).hWdata = some .busy ∧
      rejection idleBlock (cmdCycle 0xA0000000).hWdata = some .illegal ∧
      rejection idleBlock (cmdCycle 0x50000001).hWdata = some .arg := by decide

/-- One word per kind of command, PGET at the last slot. -/
theorem witness_AcceptanceEffects :
    idleBlock.cmd.curOp = .none ∧ 1 ≤ idleBlock.cfg.nPix ∧
      decode 0x50000000 = .ok (.pget 0) ∧ argOk idleBlock.cfg (.pget 0) = true ∧
      decode 0x10000000 = .ok .tx ∧ argOk idleBlock.cfg .tx = true ∧
      decode 0x70000000 = .ok .rtcrd ∧ argOk idleBlock.cfg .rtcrd = true ∧
      decode 0x80173B3B = .ok (.rtcwr 23 59 59) ∧ argOk idleBlock.cfg (.rtcwr 23 59 59) = true := by decide

theorem witness_InstantCommandTakesOneCycle :
    ∃ (i : CycleIn) (c : Instr) (s t : State),
      s.Inv ∧ currentInput s = i ∧ i.rst = false ∧ i.hReq = 2 ∧ i.hAddr = 0 ∧ s.cmd.curOp = .none ∧
        decode i.hWdata = .ok c ∧ longOp c = .none ∧ exec c s = .next t :=
  ⟨cmdCycle 0x3000FFFF, .pset 65535, fed idleBlock [cmdCycle 0x3000FFFF], _, idleBlock_inv _, rfl, rfl, rfl, rfl, rfl,
    by decide, rfl, eq_next_of_isSome _ idleBlock (by decide)⟩

theorem witness_NopResult : idleBlock.cmd.curOp = .none ∧ sending.cmd.curOp ≠ .none ∧ opcodeField 0 = 0 := by decide

theorem witness_ClearResult :
    idleBlock.fmem.fb.wf ∧ sending.fmem.fb.wf ∧ idleBlock.cmd.curOp = .none ∧ sending.cmd.curOp ≠ .none ∧
      opcodeField 0x20000000 = 2 := by decide

theorem witness_PsetResult :
    idleBlock.fmem.fb.wf ∧ sending.fmem.fb.wf ∧ 1 ≤ idleBlock.cfg.nPix ∧ 1 ≤ sending.cfg.nPix ∧
      idleBlock.cmd.curOp = .none ∧ sending.cmd.curOp ≠ .none ∧ opcodeField 0x3000FFFF = 3 := by decide

theorem witness_PaddResult :
    idleBlock.fmem.fb.wf ∧ sending.fmem.fb.wf ∧ 1 ≤ idleBlock.cfg.nPix ∧ 1 ≤ sending.cfg.nPix ∧
      idleBlock.cmd.curOp = .none ∧ sending.cmd.curOp ≠ .none ∧ opcodeField 0x4000FFFF = 4 := by decide

theorem witness_PgetResult :
    idleBlock.cmd.curOp = .none ∧ sending.cmd.curOp ≠ .none ∧ idleBlock.cfg.nPix ≤ 1 ∧ 0 < idleBlock.cfg.nPix ∧
      opcodeField 0x5000FFFF = 5 := by decide

theorem witness_SetoffResult :
    idleBlock.cmd.curOp = .none ∧ sending.cmd.curOp ≠ .none ∧ idleBlock.cfg.nPix ≤ 1 ∧ 0 < idleBlock.cfg.nPix ∧
      idleBlock.cfg.nPix ≤ 65535 ∧ 65535 < 65536 ∧ opcodeField 0x6000FFFF = 6 := by decide

theorem witness_PgetReadsWhatPsetWrote :
    idleBlock.fmem.fb.wf ∧ idleBlock.cmd.curOp = .none ∧ 1 ≤ idleBlock.cfg.nPix := by decide

/-- A tick while a TX runs: no access, so every register of the frame memory and the command processor is kept. -/
theorem witness_OnlyClearPsetPaddWriteFrame :
    ∃ (i : CycleIn) (s t : State), s.Inv ∧ currentInput s = i ∧ i.rst = false ∧ step s = .next t ∧
      ∀ c, Accepts i s c → c ≠ .clear ∧ (∀ n, c ≠ .pset n) ∧ ∀ n, c ≠ .padd n :=
  ⟨tickCycle, fed sending [tickCycle], _, sending_inv _, rfl, rfl, step_after _ (by decide),
    fun _ h => absurd h.2.1 (by decide)⟩

/-- SETOFF, then PGET, accepted: RESULT and then OFFSET are what the cycle keeps. -/
theorem witness_OnlyClearPsetPaddWriteFrame_accepted :
    (∃ (i : CycleIn) (s t : State), s.Inv ∧ currentInput s = i ∧ i.rst = false ∧ step s = .next t ∧
      rejection s i.hWdata = none ∧ i.hReq = 2 ∧ i.hAddr = 0 ∧ ∀ p, ¬Accepts i s (.pget p)) ∧
    ∃ (i : CycleIn) (s t : State), s.Inv ∧ currentInput s = i ∧ i.rst = false ∧ step s = .next t ∧
      rejection s i.hWdata = none ∧ ∀ o, ¬Accepts i s (.setoff o) :=
  ⟨⟨cmdCycle 0x60000000, fed idleBlock [cmdCycle 0x60000000], _, idleBlock_inv _, rfl, rfl, step_after _ (by decide),
      by decide, rfl, rfl, fun _ h => by simpa using (show decode 0x60000000 = .ok (.setoff 0) by decide).symm.trans h.2.2.2.2.1⟩,
    cmdCycle 0x50000000, fed idleBlock [cmdCycle 0x50000000], _, idleBlock_inv _, rfl, rfl, step_after _ (by decide),
    by decide, fun _ h => by simpa using (show decode 0x50000000 = .ok (.pget 0) by decide).symm.trans h.2.2.2.2.1⟩

/-- A rejected write, a write to ARG, and a reset cycle. -/
theorem witness_OnlyClearPsetPaddWriteFrame_others :
    (∃ (i : CycleIn) (s t : State), s.Inv ∧ currentInput s = i ∧ i.rst = false ∧ step s = .next t ∧
      i.hReq = 2 ∧ i.hAddr = 0 ∧ rejection s i.hWdata = some .arg) ∧
    (∃ (i : CycleIn) (s t : State), s.Inv ∧ currentInput s = i ∧ i.rst = false ∧ step s = .next t ∧
      i.hReq = 2 ∧ i.hAddr = 1) ∧
    ∃ s t, (currentInput s).rst = true ∧ step s = .next t :=
  ⟨⟨cmdCycle 0x50000001, fed idleBlock [cmdCycle 0x50000001], _, idleBlock_inv _, rfl, rfl, step_after _ (by decide),
      rfl, rfl, by decide⟩,
    ⟨withWrite quietCycle 1 7, fed idleBlock [withWrite quietCycle 1 7], _, idleBlock_inv _, rfl, rfl,
      step_after _ (by decide), rfl, rfl⟩,
    fed sending [resetCycle], _, rfl, step_after _ (by decide)⟩

theorem witness_FrameBitOrder : 23 < 24 * idleBlock.cfg.nPix ∧ 2 < 3 ∧ 7 < 8 := by decide

theorem witness_TxAcceptance :
    idleBlock.cmd.curOp = .none ∧ sending.cmd.curOp ≠ .none ∧ opcodeField 0x10000000 = 1 := by decide

/-- One state per phase: idle, waiting, sending, in the latch gap. -/
theorem witness_LtxFollowsItsTable :
    ∃ i s t, State.Inv s ∧ currentInput s = i ∧ i.rst = false ∧ step s = .next t ∧ s.ltx.txPhase = .idle ∧ Accepts i s .tx :=
  ⟨cmdCycle 0x10000000, fed idleBlock [cmdCycle 0x10000000], _, idleBlock_inv _, rfl, rfl, step_after _ (by decide), rfl,
    by decide⟩

theorem witness_LtxFollowsItsTable_bits :
    ∃ i s t, State.Inv s ∧ currentInput s = i ∧ i.rst = false ∧ step s = .next t ∧ s.ltx.txPhase = .bits :=
  ⟨quietCycle, fed sending [quietCycle], _, sending_inv _, rfl, rfl, step_after _ (by decide), rfl⟩

/-- A block whose TX waits for the line, and one in the last cycle of the latch gap. -/
def waiting : State := { sending with ltx := { idleBlock.ltx with txPhase := .wait, lowRun := 1 } }

def latching : State := { sending with ltx := { idleBlock.ltx with txPhase := .latch, txBit := 23, txCyc := 1, lowRun := 1 } }

theorem witness_LtxFollowsItsTable_wait :
    ∃ i s t, State.Inv s ∧ currentInput s = i ∧ i.rst = false ∧ step s = .next t ∧ s.ltx.txPhase = .wait :=
  ⟨quietCycle, fed waiting [quietCycle], _,
    inv_of_parts _ (by decide), rfl, rfl,
    step_after _ (by decide), rfl⟩

theorem witness_LtxFollowsItsTable_latch :
    ∃ i s t, State.Inv s ∧ currentInput s = i ∧ i.rst = false ∧ step s = .next t ∧ s.ltx.txPhase = .latch :=
  ⟨quietCycle, fed latching [quietCycle], _,
    inv_of_parts _ (by decide), rfl, rfl,
    step_after _ (by decide), rfl⟩

/-- With a WAIT phase, so that every range of cycles is inhabited. -/
theorem witness_TxWaveform :
    ∃ (i : CycleIn) (l : List CycleIn) (s : State),
      s.Inv ∧ s.cmd.curOp = .none ∧ s.inputs = i :: l ∧ WritesCmd i 0x10000000 ∧ NoResetFor (txBusyCycles s) l ∧
        0 < txWaitCycles s ∧ 0 < s.cfg.nPix ∧ 0 < s.cfg.tbitCyc ∧ 0 < s.cfg.latchCyc :=
  ⟨cmdCycle 0x10000000, List.replicate 51 tickCycle, fed idleBlock (cmdCycle 0x10000000 :: List.replicate 51 tickCycle),
    idleBlock_inv _, rfl, rfl, by decide, by decide, by decide, by decide, by decide, by decide⟩

theorem witness_TxDuration :
    ∃ (i : CycleIn) (l : List CycleIn) (s : State),
      s.Inv ∧ s.cmd.curOp = .none ∧ s.inputs = i :: l ∧ WritesCmd i 0x10000000 ∧ NoResetFor (txBusyCycles s) l ∧
        0 < txBusyCycles s :=
  ⟨cmdCycle 0x10000000, List.replicate 51 quietCycle, fed idleBlock (cmdCycle 0x10000000 :: List.replicate 51 quietCycle),
    idleBlock_inv _, rfl, rfl, by decide, by decide, by decide⟩

theorem witness_WaveformIgnoresEverythingElse :
    ∃ s s' t t', State.Inv s ∧ State.Inv s' ∧ s.cmd.curOp = .tx ∧ s'.cmd.curOp = .tx ∧ s.cfg = s'.cfg ∧
      s.fmem.fb = s'.fmem.fb ∧ s.ltx = s'.ltx ∧ (currentInput s).rst = false ∧ (currentInput s').rst = false ∧
      step s = .next t ∧ step s' = .next t' ∧ s ≠ s' :=
  ⟨fed sending [quietCycle], fed sending [cmdCycle 0x20000000], _, _, sending_inv _, sending_inv _, rfl, rfl, rfl, rfl, rfl,
    rfl, rfl, step_after _ (by decide), step_after _ (by decide), by decide⟩

theorem witness_LineLowOutsideBits :
    Reachable State.reset ∧ State.reset.ltx.txPhase ≠ .bits ∧ State.reset.cmd.curOp ≠ .tx :=
  ⟨reset_reachable, by decide, by decide⟩

theorem witness_LowRunCountsLowCycles :
    ∃ s t u v, step s = .next t ∧ (currentInput s).rst = false ∧ step u = .next v ∧ (currentInput u).rst = true :=
  ⟨fed sending [quietCycle], _, fed sending [resetCycle], _, step_after _ (by decide), rfl, step_after _ (by decide), rfl⟩

theorem witness_RtcrdAcceptance :
    idleBlock.cmd.curOp = .none ∧ sending.cmd.curOp ≠ .none ∧ opcodeField 0x70000000 = 7 := by decide

/-- Each operand just in and just out of its range. -/
theorem witness_RtcwrAcceptance :
    idleBlock.cmd.curOp = .none ∧ sending.cmd.curOp ≠ .none ∧ 23 < 24 ∧ 59 < 60 ∧ 23 ≤ 23 ∧ 59 ≤ 59 ∧
      opcodeField 0x801F3F3F = 8 := by decide

theorem witness_LinesReleasedOutsideRtc :
    Reachable State.reset ∧ State.reset.cmd.curOp ≠ .rtcrd ∧ State.reset.cmd.curOp ≠ .rtcwr ∧
      ∃ s t, (currentInput s).rst = true ∧ step s = .next t ∧ s.rtcm.sclOe = true :=
  ⟨reset_reachable, by decide, by decide, fed (onBus .rtcrd 2 none) [resetCycle], _, rfl, step_after _ (by decide),
    by decide⟩

/-- The first wait cycle, of two. -/
theorem witness_StretchWaitsThenTimesOut_waits :
    ∃ i s t k g, State.Inv s ∧ currentInput s = i ∧ i.rst = false ∧ InWaitCycle i s k g ∧ step s = .next t ∧
      s.rtcm.rtWait + 1 < s.cfg.stretchMax :=
  ⟨stretchCycle, fed (onBus .rtcrd 3 none) [stretchCycle], _, 3, highSeg .write false .arbitrate,
    fed_inv _ _ (inv_of_parts _ (by decide)), rfl, rfl, by decide, step_after _ (by decide), by decide⟩

/-- A block in its last wait cycle, without and with a NACK to report. -/
def lastWait (k : Nat) (e : Option BusError) : State :=
  { onBus .rtcrd k e with rtcm := { (onBus .rtcrd k e).rtcm with rtWait := 1 } }

theorem witness_StretchWaitsThenTimesOut :
    ∃ i s t k g, State.Inv s ∧ currentInput s = i ∧ i.rst = false ∧ InWaitCycle i s k g ∧ step s = .next t ∧
      s.rtcm.rtWait + 1 = s.cfg.stretchMax ∧ s.rtcm.rtErr = none :=
  ⟨stretchCycle, fed (lastWait 3 none) [stretchCycle], _, 3, highSeg .write false .arbitrate,
    inv_of_parts _ (by decide), rfl, rfl,
    by decide, step_after _ (by decide +kernel), by decide, by decide⟩

theorem witness_StretchWaitsThenTimesOut_recovery :
    ∃ i s t k g e, State.Inv s ∧ currentInput s = i ∧ i.rst = false ∧ InWaitCycle i s k g ∧ step s = .next t ∧
      s.rtcm.rtWait + 1 = s.cfg.stretchMax ∧ s.rtcm.rtErr = some e :=
  ⟨stretchCycle, fed (lastWait 114 (some { phase := .write, code := .addrNack })) [stretchCycle], _, 114,
    highSeg .read true .nothing, { phase := .write, code := .addrNack },
    inv_of_parts _ (by decide +kernel), rfl, rfl,
    by decide, step_after _ (by decide), by decide, by decide⟩

/-- The final STOP of RTCRD, and RTCWR, where RTCRAW is kept. -/
theorem witness_StretchWaitsThenTimesOut_raw :
    (∃ i s t k g, State.Inv s ∧ currentInput s = i ∧ i.rst = false ∧ InWaitCycle i s k g ∧ step s = .next t ∧
      s.rtcm.rtWait + 1 = s.cfg.stretchMax ∧ s.rtcm.rtErr = none ∧ s.cmd.curOp = .rtcrd ∧ 113 ≤ k) ∧
    ∃ i s t k g, State.Inv s ∧ currentInput s = i ∧ i.rst = false ∧ InWaitCycle i s k g ∧ step s = .next t ∧
      s.rtcm.rtWait + 1 = s.cfg.stretchMax ∧ s.rtcm.rtErr = none ∧ s.cmd.curOp = .rtcwr :=
  ⟨⟨stretchCycle, fed (lastWait 115 none) [stretchCycle], _, 115, highSeg .read false .nothing,
      inv_of_parts _ (by decide), rfl, rfl, by decide, step_after _ (by decide +kernel), by decide, by decide, rfl,
      by decide⟩,
    stretchCycle, { fed (onBus .rtcwr 3 none) [stretchCycle] with
      rtcm := { (onBus .rtcwr 3 none).rtcm with rtWait := 1 } }, _, 3, highSeg .write false .arbitrate,
    inv_of_parts _ (by decide), rfl, rfl, by decide, step_after _ (by decide +kernel), by decide, by decide, rfl⟩

theorem witness_SegmentsFollowOneAnother :
    ∃ i s t k g, State.Inv s ∧ currentInput s = i ∧ i.rst = false ∧ s.rtcm.rtSeg = some k ∧ (segments s)[k]? = some g ∧
      isWaitCycle i g s = false ∧ step s = .next t ∧ s.rtcm.rtCnt + 1 = s.cfg.i2cHCyc ∧ g.atEnd = .nothing ∧
      k + 1 < (segments s).length :=
  ⟨stretchCycle, fed (onBus .rtcrd 2 none) [stretchCycle], _, 2, { lowSeg .write false with load := some addrW },
    fed_inv _ _ (inv_of_parts _ (by decide)), rfl, rfl, rfl, by decide,
    by decide, step_after _ (by decide), by decide, rfl, by decide⟩

/-- The first received bit, and the end of the acknowledge for the seconds. -/
theorem witness_SegmentsFollowOneAnother_received :
    (∃ i s t k g, State.Inv s ∧ currentInput s = i ∧ i.rst = false ∧ s.rtcm.rtSeg = some k ∧ (segments s)[k]? = some g ∧
      isWaitCycle i g s = false ∧ step s = .next t ∧ s.rtcm.rtCnt + 1 = s.cfg.i2cHCyc ∧ g.atEnd = .dataBit) ∧
    ∃ i s t k g, State.Inv s ∧ currentInput s = i ∧ i.rst = false ∧ s.rtcm.rtSeg = some k ∧ (segments s)[k]? = some g ∧
      isWaitCycle i g s = false ∧ step s = .next t ∧ s.rtcm.rtCnt + 1 = s.cfg.i2cHCyc ∧ g.atEnd = .store 0 :=
  ⟨⟨quietCycle, fed (onBus .rtcrd 60 none) [quietCycle], _, 60, highSeg .read false .dataBit,
      fed_inv _ _ (inv_of_parts _ (by decide +kernel)), rfl, rfl, rfl, by decide, by decide,
      step_after _ (by decide +kernel), by decide, rfl⟩,
    quietCycle, fed (onBus .rtcrd 76 none) [quietCycle], _, 76, highSeg .read true (.store 0),
    fed_inv _ _ (inv_of_parts _ (by decide +kernel)), rfl, rfl, rfl, by decide, by decide,
    step_after _ (by decide +kernel), by decide, rfl⟩

/-- A half bit of two cycles, in its first. -/
theorem witness_SegmentsFollowOneAnother_counting :
    ∃ i s t k g, State.Inv s ∧ currentInput s = i ∧ i.rst = false ∧ s.rtcm.rtSeg = some k ∧ (segments s)[k]? = some g ∧
      isWaitCycle i g s = false ∧ step s = .next t ∧ s.rtcm.rtCnt + 1 < s.cfg.i2cHCyc :=
  ⟨quietCycle, { fed (onBus .rtcrd 1 none) [quietCycle] with cfg := { least with i2cHCyc := 2 } }, _, 1,
    highSeg .write true .nothing,
    inv_of_parts _ (by decide), rfl, rfl, rfl,
    by decide, by decide, step_after _ (by decide), by decide⟩

theorem witness_ArbitrationLossEndsTheCommand :
    ∃ i s t k g, State.Inv s ∧ currentInput s = i ∧ i.rst = false ∧ InLastCycle i s k g ∧ g.atEnd = .arbitrate ∧
      step s = .next t ∧ sdaIn i s = false :=
  ⟨sdaLowCycle, fed (onBus .rtcrd 3 none) [sdaLowCycle], _, 3, highSeg .write false .arbitrate,
    fed_inv _ _ (inv_of_parts _ (by decide)), rfl, rfl, by decide, rfl, step_after _ (by decide), by decide⟩

theorem witness_ArbitrationLossEndsTheCommand_won :
    ∃ i s t k g, State.Inv s ∧ currentInput s = i ∧ i.rst = false ∧ InLastCycle i s k g ∧ g.atEnd = .arbitrate ∧
      step s = .next t ∧ sdaIn i s = true :=
  ⟨quietCycle, fed (onBus .rtcrd 3 none) [quietCycle], _, 3, highSeg .write false .arbitrate,
    fed_inv _ _ (inv_of_parts _ (by decide)), rfl, rfl, by decide, rfl, step_after _ (by decide), by decide⟩

theorem witness_NackSendsStopThenReports :
    ∃ i s t k g code, State.Inv s ∧ currentInput s = i ∧ i.rst = false ∧ InLastCycle i s k g ∧ step s = .next t ∧
      g.atEnd = .acknowledge code ∧ sdaIn i s = true :=
  ⟨quietCycle, fed (onBus .rtcrd 19 none) [quietCycle], _, 19, highSeg .write false (.acknowledge .addrNack), .addrNack,
    fed_inv _ _ (inv_of_parts _ (by decide)), rfl, rfl, by decide, step_after _ (by decide +kernel), rfl, by decide⟩

theorem witness_NackSendsStopThenReports_acknowledged :
    ∃ i s t k g code, State.Inv s ∧ currentInput s = i ∧ i.rst = false ∧ InLastCycle i s k g ∧ step s = .next t ∧
      g.atEnd = .acknowledge code ∧ sdaIn i s = false :=
  ⟨sdaLowCycle, fed (onBus .rtcrd 19 none) [sdaLowCycle], _, 19, highSeg .write false (.acknowledge .addrNack), .addrNack,
    fed_inv _ _ (inv_of_parts _ (by decide)), rfl, rfl, by decide, step_after _ (by decide), rfl, by decide⟩

theorem witness_NackSendsStopThenReports_reported :
    ∃ i s t k g e, State.Inv s ∧ currentInput s = i ∧ i.rst = false ∧ InLastCycle i s k g ∧ step s = .next t ∧
      s.rtcm.rtErr = some e ∧ k + 1 = (segments s).length :=
  ⟨quietCycle, fed (onBus .rtcrd 115 (some { phase := .write, code := .addrNack })) [quietCycle], _, 115,
    highSeg .read false .nothing, { phase := .write, code := .addrNack },
    fed_inv _ _ (inv_of_parts _ (by decide +kernel)), rfl, rfl, by decide, step_after _ (by decide), rfl, by decide⟩

theorem witness_BcdRoundTrip : 59 ≤ 59 ∧ bcdValid 0x59 59 = true ∧ bcdValid 0x23 23 = true ∧ 23 ≤ 23 := by decide

/-- Bytes of 14:30:00, all valid. -/
def goodBytes : RxBytes := { sec := 0x00, min := 0x30, hour := 0x14 }

/-- An hour of 24, just out of range. -/
def lateBytes : RxBytes := { sec := 0x59, min := 0x59, hour := 0x24 }

theorem witness_RtcrdReadsTheTime :
    ∃ i l s x, State.Inv s ∧ s.cmd.curOp = .none ∧ s.inputs = i :: l ∧ WritesCmd i 0x70000000 ∧
      FollowsScript s.cfg.i2cHCyc (readScript x) l ∧
      bcdValid x.sec 59 = true ∧ bcdValid x.min 59 = true ∧ bcdValid x.hour 23 = true :=
  ⟨cmdCycle 0x70000000, scripted (readScript goodBytes), fed idleBlock (cmdCycle 0x70000000 :: scripted (readScript goodBytes)),
    goodBytes, idleBlock_inv _, rfl, rfl, by decide, by decide +kernel, by decide, by decide, by decide⟩

/-- The last of the 116 segments has an entry in the table of drives. -/
theorem witness_RtcrdReadsTheTime_drives : readWire[115]? = some (wireHigh .read false .nothing) := by decide

theorem witness_RtcrdRangeErrorKeepsTime :
    ∃ i l s x, State.Inv s ∧ s.cmd.curOp = .none ∧ s.inputs = i :: l ∧ WritesCmd i 0x70000000 ∧
      FollowsScript s.cfg.i2cHCyc (readScript x) l ∧
      ¬(bcdValid x.sec 59 = true ∧ bcdValid x.min 59 = true ∧ bcdValid x.hour 23 = true) :=
  ⟨cmdCycle 0x70000000, scripted (readScript lateBytes), fed idleBlock (cmdCycle 0x70000000 :: scripted (readScript lateBytes)),
    lateBytes, idleBlock_inv _, rfl, rfl, by decide, by decide +kernel, by decide⟩

theorem witness_RtcwrSendsTheTime :
    ∃ i l s h m sec, State.Inv s ∧ s.cmd.curOp = .none ∧ s.inputs = i :: l ∧ h ≤ 23 ∧ m ≤ 59 ∧ sec ≤ 59 ∧
      WritesCmd i (encode (.rtcwr h m sec)) ∧ FollowsScript s.cfg.i2cHCyc writeScript l :=
  ⟨cmdCycle 0x80173B3B, scripted writeScript, fed idleBlock (cmdCycle 0x80173B3B :: scripted writeScript), 23, 59, 59,
    idleBlock_inv _, rfl, rfl, by decide, by decide, by decide, by decide, by decide +kernel⟩

/-- Both commands. -/
theorem witness_AbsentDeviceIsAddrNack :
    (∃ i l s c, State.Inv s ∧ s.inputs = i :: l ∧ Accepts i s c ∧ longOp c = .rtcrd ∧
      FollowsScript s.cfg.i2cHCyc (List.replicate 23 false) l) ∧
    ∃ i l s c, State.Inv s ∧ s.inputs = i :: l ∧ Accepts i s c ∧ longOp c = .rtcwr ∧
      FollowsScript s.cfg.i2cHCyc (List.replicate 23 false) l :=
  ⟨⟨cmdCycle 0x70000000, List.replicate 23 quietCycle, fed idleBlock (cmdCycle 0x70000000 :: List.replicate 23 quietCycle),
      .rtcrd, idleBlock_inv _, rfl, by decide, rfl, by decide⟩,
    cmdCycle 0x80173B3B, List.replicate 23 quietCycle, fed idleBlock (cmdCycle 0x80173B3B :: List.replicate 23 quietCycle),
    .rtcwr 23 59 59, idleBlock_inv _, rfl, by decide, rfl, by decide⟩

theorem witness_RtcCommandsEnd :
    ∃ s : State, s.Inv ∧ s.cmd.curOp = .rtcwr ∧ NoResetFor (116 * (s.cfg.stretchMax + s.cfg.i2cHCyc)) s.inputs :=
  ⟨fed (onBus .rtcwr 0 none) (List.replicate 348 stretchCycle), fed_inv _ _ (inv_of_parts _ (by decide)), rfl,
    by decide +kernel⟩

/-- A read about to end with bytes of its own. -/
def ending (x : RxBytes) : State :=
  { onBus .rtcrd 115 none with rtcm := { (onBus .rtcrd 115 none).rtcm with rtRx := x } }

theorem witness_OnlyGoodReadsWriteTime :
    ∃ s t, State.Inv s ∧ (currentInput s).rst = false ∧ step s = .next t ∧ t.rtcm.time ≠ s.rtcm.time :=
  ⟨fed (ending goodBytes) [quietCycle], _,
    inv_of_parts _ (by decide), rfl,
    step_after _ (by decide), by decide⟩

/-- With RANGE, and with a TIMEOUT in the last segment. -/
theorem witness_FailedReadIsStale :
    (∃ s t, State.Inv s ∧ (currentInput s).rst = false ∧ step s = .next t ∧ s.cmd.curOp = .rtcrd ∧ t.cmd.curOp = .none ∧
      t.rtcm.busErr = true ∧ t.rtcm.busCode = .range) ∧
    ∃ s t, State.Inv s ∧ (currentInput s).rst = false ∧ step s = .next t ∧ s.cmd.curOp = .rtcrd ∧ t.cmd.curOp = .none ∧
      t.rtcm.busErr = true ∧ t.rtcm.busCode = .timeout ∧ 113 ≤ s.rtcm.rtSeg.getD 0 :=
  ⟨⟨fed (ending lateBytes) [quietCycle], _,
      inv_of_parts _ (by decide), rfl,
      step_after _ (by decide), rfl, by decide, by decide, by decide⟩,
    fed (lastWait 115 none) [stretchCycle], _,
    inv_of_parts _ (by decide), rfl,
    step_after _ (by decide +kernel), rfl, by decide +kernel, by decide +kernel, by decide +kernel, by decide⟩

theorem witness_BusErrorFieldsHold :
    ∃ i s t, State.Inv s ∧ currentInput s = i ∧ i.rst = false ∧ step s = .next t ∧
      (∀ c, Accepts i s c → longOp c ≠ .rtcrd ∧ longOp c ≠ .rtcwr) ∧
      (s.cmd.curOp = .rtcrd ∨ s.cmd.curOp = .rtcwr → t.cmd.curOp = s.cmd.curOp) ∧ s.cmd.curOp = .rtcrd :=
  ⟨quietCycle, fed (onBus .rtcrd 2 none) [quietCycle], _, fed_inv _ _ (inv_of_parts _ (by decide)), rfl, rfl,
    step_after _ (by decide), fun _ h => absurd h.2.1 (by decide), fun _ => by decide, rfl⟩

theorem witness_RecalResult :
    idleBlock.cmd.curOp = .none ∧ sending.cmd.curOp ≠ .none ∧ opcodeField 0x90000001 = 9 := by decide

theorem witness_TicksPerCycle :
    ∃ i s t, State.Inv s ∧ currentInput s = i ∧ i.rst = false ∧ step s = .next t ∧ Accepts i s (.recal true) :=
  ⟨cmdCycle 0x90000001, fed idleBlock [cmdCycle 0x90000001], _, idleBlock_inv _, rfl, rfl, step_after _ (by decide),
    by decide⟩

theorem witness_TickWithRecalStartsNewSecond :
    ∃ i s, State.Inv s ∧ currentInput s = i ∧ Accepts i s (.recal true) ∧ i.tick = true :=
  ⟨{ cmdCycle 0x90000001 with tick := true }, fed idleBlock [{ cmdCycle 0x90000001 with tick := true }], idleBlock_inv _,
    rfl, by decide, rfl⟩

/-- Fifty-one ticks in the mask window and one after it. -/
theorem witness_TxLosesMaskedTicks :
    ∃ (i r : CycleIn) (l : List CycleIn) (s : State),
      s.Inv ∧ s.cmd.curOp = .none ∧ s.inputs = i :: l ∧ WritesCmd i 0x10000000 ∧ NoResetFor (txBusyCycles s + 1) l ∧
        l[txBusyCycles s]? = some r ∧ r.hReq ≠ 2 :=
  ⟨cmdCycle 0x10000000, tickCycle, List.replicate 52 tickCycle,
    fed idleBlock (cmdCycle 0x10000000 :: List.replicate 52 tickCycle), idleBlock_inv _, rfl, rfl, by decide, by decide,
    by decide, by decide⟩

/-- A tick at the largest count. -/
theorem witness_RawTicksNeverWrap :
    ∃ i s t, State.Inv s ∧ currentInput s = i ∧ i.rst = false ∧ ¬Accepts i s (.recal true) ∧ step s = .next t ∧
      s.msync.rawTicks = 0xFFFFFFFF :=
  ⟨tickCycle, { fed idleBlock [tickCycle] with msync := { idleBlock.msync with rawTicks := 0xFFFFFFFF } }, _,
    inv_of_parts _ (by decide), rfl, rfl,
    by decide, step_after _ (by decide), rfl⟩

theorem witness_ElapsedRange : idleBlock.msync.calib ≠ 0 ∧ (1 : Word) ≠ 0 := by decide

theorem witness_SmoothObligations : (1 : Word) ≠ 0 ∧ (0xFFFFFFFF : Word) ≠ 0 := by decide

theorem witness_CalibNeverZero :
    Reachable State.reset ∧ (∃ s t, (currentInput s).rst = true ∧ step s = .next t) ∧
      ∃ i s t, State.Inv s ∧ currentInput s = i ∧ i.rst = false ∧ ¬Accepts i s (.recal true) ∧ step s = .next t :=
  ⟨reset_reachable, ⟨fed sending [resetCycle], _, rfl, step_after _ (by decide)⟩, cmdCycle 0x90000000,
    fed idleBlock [cmdCycle 0x90000000], _, idleBlock_inv _, rfl, rfl, by decide, step_after _ (by decide)⟩

/-- A cycle per kind of access, at the ends of the ranges of addresses. -/
theorem witness_HostAccessEffects :
    quietCycle.rst = false ∧ (withRead quietCycle 15).hReq = 1 ∧ (withWrite quietCycle 0 0).hAddr = 0 ∧
      (withWrite quietCycle 1 0).hAddr = 1 ∧ 2 ≤ (withWrite quietCycle 2 0).hAddr.toNat ∧
      2 ≤ (withWrite quietCycle 15 0).hAddr.toNat ∧ quietCycle.hReq = 0 ∧
      ({ quietCycle with hReq := 3 } : CycleIn).hReq = 3 ∧ (nextOf (runCycle quietCycle idleBlock)).isSome = true := by decide

theorem witness_RegisterMap :
    11 ≤ (11 : BitVec 4).toNat ∧ 11 ≤ (15 : BitVec 4).toNat ∧ 2 ≤ (2 : BitVec 4).toNat ∧ 2 ≤ (15 : BitVec 4).toNat := by
  decide

theorem witness_StepRunsDecodedCommand :
    ∃ i w c s, currentInput s = i ∧ WritesCmd i w ∧ decode w = .ok c :=
  ⟨cmdCycle 0x80173B3B, 0x80173B3B, .rtcwr 23 59 59, fed idleBlock [cmdCycle 0x80173B3B], rfl, by decide, by decide⟩

theorem witness_ResetOverridesEverything : ∃ s : State, (currentInput s).rst = true ∧ s.cmd.curOp = .tx :=
  ⟨fed sending [resetCycle], rfl, rfl⟩

theorem witness_ResetValues :
    ∃ p s r, r.cfg = p ∧ (currentInput r).rst = true ∧ step r = .next s ∧ r.cmd.curOp = .tx :=
  ⟨least, _, fed sending [resetCycle], rfl, rfl, step_after _ (by decide), rfl⟩

theorem witness_ResetMeetsInvariant : Params.reference.Ok ∧ least.Ok := by decide

theorem witness_StepKeepsInvariant : ∃ s t, State.Inv s ∧ step s = .next t :=
  ⟨fed sending [quietCycle], _, sending_inv _, step_after _ (by decide)⟩

theorem witness_StepNeverStops : ∃ s, State.Inv s := ⟨fed sending [quietCycle], sending_inv _⟩

theorem witness_ReachableStatesSatisfyR42 : Reachable State.reset := reset_reachable

end Sys2Proof.Tests
end

section
/-! SUPPORT. One cycle said once: what a step's next state is made of, and that every cycle keeps each part of the
invariant. -/

namespace Sys2Proof.Machine

/-! ## What a cycle is made of -/

/-- The engines' writes of a cycle, before `led_o`: `s` is the state at its start, `m` what the host's access made of it. -/
def engines (i : CycleIn) (s m : State) : State := msyncCycle i s (rtcmCycle i s (ltxCycle s m))

@[simp] theorem engines_cfg (i : CycleIn) (s m : State) : (engines i s m).cfg = m.cfg := by simp [engines]
@[simp] theorem engines_fmem (i : CycleIn) (s m : State) : (engines i s m).fmem = m.fmem := by simp [engines]
@[simp] theorem engines_ltx (i : CycleIn) (s m : State) : (engines i s m).ltx = ltxNext s m.ltx := by simp [engines]
@[simp] theorem engines_msync (i : CycleIn) (s m : State) :
    (engines i s m).msync =
      { m.msync with
        rawTicks := addTicks m.msync.rawTicks (ticksCounted i s)
        tickPend := tickPendNext i s } := by simp [engines]

/-- A reset cycle's next state, whatever else the cycle holds (spec/70_reset_and_hazards.md R290). -/
theorem step_of_rst (s : State) (h : (currentInput s).rst = true) :
    step s = .next (closeCycle (currentInput s) s (State.resetWith s.cfg)) := by
  simp [step, runCycle, h]

/-- A step that answers is a reset cycle, or the host's access, the engines and then `led_o` of the next cycle. -/
theorem step_cases (s t : State) (h : step s = .next t) :
    ((currentInput s).rst = true ∧ t = closeCycle (currentInput s) s (State.resetWith s.cfg)) ∨
      ((currentInput s).rst = false ∧ ∃ m level, hostAccess (currentInput s) s = .next m ∧
        ledLevel (engines (currentInput s) s m) = .next level ∧
        t = closeCycle (currentInput s) s
          { engines (currentInput s) s m with ltx := { (engines (currentInput s) s m).ltx with ledO := level } }) := by
  cases hr : (currentInput s).rst with
  | true => exact .inl ⟨rfl, by simpa [step_of_rst s hr] using h.symm⟩
  | false =>
    simp only [step, runCycle, hr, Bool.false_eq_true, if_false, bindNext_eq_next, clockEdge] at h
    obtain ⟨m, hm, u, hu, ht⟩ := h
    obtain ⟨level, hl, rfl⟩ := driveLed_eq_next _ _ hu
    exact .inr ⟨rfl, m, level, hm, hl, by simpa [engines] using ht.symm⟩

/-! ## The host's access, unit by unit -/

/-- The host's access writes the command processor alone and leaves `curOp`, or a command is accepted by an idle block. -/
theorem hostAccess_units (i : CycleIn) (s m : State) (h : hostAccess i s = .next m) :
    (∃ c : CmdUnit, m = { s with cmd := c } ∧ c.curOp = s.cmd.curOp) ∨
      (s.cmd.curOp = .none ∧ ∃ c, Accepted s c m) := by
  rcases hostAccess_cases i s m h with rfl | rfl | ⟨_, rfl⟩ | ⟨_, c, rfl, _⟩ | ⟨hb, _, _, c, _, hacc⟩
  · exact .inl ⟨_, rfl, rfl⟩
  · exact .inl ⟨_, rfl, rfl⟩
  · exact .inl ⟨_, rfl, rfl⟩
  · exact .inl ⟨_, rfl, rfl⟩
  · exact .inr ⟨(busy_eq_false s).1 hb, c, hacc⟩

theorem Accepted.cfg {s m : State} {c : Instr} (h : Accepted s c m) : m.cfg = s.cfg := by
  cases h <;> rfl

theorem hostAccess_cfg (i : CycleIn) (s m : State) (h : hostAccess i s = .next m) : m.cfg = s.cfg := by
  rcases hostAccess_units i s m h with ⟨c, rfl, _⟩ | ⟨_, c, hacc⟩
  · rfl
  · exact hacc.cfg

/-- Acceptance starts a frame for a TX and leaves LTX alone otherwise (spec/42_transmit.md R150). -/
theorem Accepted.ltx {s m : State} {c : Instr} (h : Accepted s c m) (hop : s.cmd.curOp = .none) :
    (m.cmd.curOp = .tx ∧ m.ltx = startFrame s) ∨ (m.cmd.curOp ≠ .tx ∧ m.ltx = s.ltx) := by
  cases h <;> simp [hop]

/-! ## The command processor -/

theorem Accepted.cmdOk {s m : State} {c : Instr} (h : Accepted s c m) (hop : s.cmd.curOp = .none) : CmdOk m := by
  cases h <;> simp [CmdOk, hop]

/-- A rejection sets REJ and a code together, and acceptance clears both (spec/40_command.md R121). -/
theorem hostAccess_cmdOk (i : CycleIn) (s m : State) (h : hostAccess i s = .next m) (hs : CmdOk s) : CmdOk m := by
  obtain ⟨hrej, hdone⟩ := hs
  rcases hostAccess_cases i s m h with rfl | rfl | ⟨_, rfl⟩ | ⟨_, c, rfl, hc⟩ | ⟨hb, _, _, c, _, hacc⟩
  · exact ⟨hrej, hdone⟩
  · exact ⟨hrej, hdone⟩
  · exact ⟨by simp, hdone⟩
  · exact ⟨by simpa using hc, hdone⟩
  · exact hacc.cmdOk ((busy_eq_false s).1 hb)

/-- The engines leave the command processor alone or complete its long command (spec/40_command.md R123). -/
theorem engines_cmd (i : CycleIn) (s m : State) :
    (engines i s m).cmd = m.cmd ∨ (engines i s m).cmd = { m.cmd with curOp := .none, done := true } := by
  have hltx := ltxCycle_cmd s m
  have heff := rtcmCycle_effect i s (ltxCycle s m)
  simp only [engines, msyncCycle_cmd]
  generalize rtcmCycle i s (ltxCycle s m) = u at heff ⊢
  cases heff with
  | runs r =>
    split at hltx
    · exact .inr hltx
    · exact .inl hltx
  | ends r => exact .inr (by split at hltx <;> simp [hltx])

theorem engines_cmdOk (i : CycleIn) (s m : State) (h : CmdOk m) : CmdOk (engines i s m) := by
  obtain ⟨hrej, hdone⟩ := h
  rcases engines_cmd i s m with he | he
  · exact ⟨by rw [he]; exact hrej, by rw [he]; exact hdone⟩
  · exact ⟨by rw [he]; exact hrej, by simp [he]⟩

/-! ## The frame memory -/

theorem Accepted.fmemOk {s m : State} {c : Instr} (h : Accepted s c m) (hp : s.cfg.Ok) (hs : FmemOk s) : FmemOk m := by
  obtain ⟨_, hpix, hmax, _⟩ := hp
  obtain ⟨hwf, hbelow, hoff, hres⟩ := hs
  have hslot (i : Nat) (c : Color) :
      (s.fmem.fb.writeSlot (phys s i) c).wf ∧ ∀ d ∈ (s.fmem.fb.writeSlot (phys s i) c).cells, d.1 < fbSize s :=
    ⟨Memory.wf_writeSlot _ _ _ hwf, Memory.below_writeSlot _ _ _ _ (phys_lt s i hpix) hbelow⟩
  cases h with
  | clear => exact ⟨Memory.wf_clearBelow _ _ hwf, Memory.below_clearBelow _ _ _ le_rfl hbelow, hoff, hres⟩
  | pset i => exact ⟨(hslot i _).1, (hslot i _).2, hoff, hres⟩
  | padd i c _ => exact ⟨(hslot i _).1, (hslot i _).2, hoff, hres⟩
  | pget p c _ _ => exact ⟨hwf, hbelow, hoff, colorWord_lt c⟩
  | setoff o ho =>
    refine ⟨hwf, hbelow, ?_, hres⟩
    simp only [acceptNow_fmem, acceptNow_cfg, BitVec.toNat_ofNat]
    omega
  | nop | tx | rtcrd | rtcwr | recal0 | recal1 => exact ⟨hwf, hbelow, hoff, hres⟩

theorem hostAccess_fmemOk (i : CycleIn) (s m : State) (h : hostAccess i s = .next m) (hp : s.cfg.Ok) (hs : FmemOk s) :
    FmemOk m := by
  rcases hostAccess_units i s m h with ⟨c, rfl, _⟩ | ⟨_, c, hacc⟩
  · exact hs
  · exact hacc.fmemOk hp hs

theorem engines_fmemOk (i : CycleIn) (s m : State) (h : FmemOk m) : FmemOk (engines i s m) := by
  simpa only [FmemOk, fbSize, engines_cfg, engines_fmem] using h

/-! ## MSYNC -/

/-- SMOOTH never answers 0 (spec/44_millis.md R239). -/
theorem smooth_ne_zero (f : Smooth) (raw cal : Word) : smooth f raw cal ≠ 0 := by
  cases f with
  | reference =>
    have hlt : max 1 ((raw.toNat + cal.toNat) / 2) < 2 ^ 32 := by omega
    intro h
    have h0 : max 1 ((raw.toNat + cal.toNat) / 2) % 2 ^ 32 = 0 := congrArg BitVec.toNat h
    rw [Nat.mod_eq_of_lt hlt] at h0
    omega
  | custom k =>
    simp only [smooth]
    split
    · decide
    · assumption

/-- Only RECAL 1 writes CALIB, and it writes a value of SMOOTH (R242). -/
theorem hostAccess_calib (i : CycleIn) (s m : State) (h : hostAccess i s = .next m) (hs : s.msync.calib ≠ 0) :
    m.msync.calib ≠ 0 := by
  rcases hostAccess_units i s m h with ⟨c, rfl, _⟩ | ⟨_, c, hacc⟩
  · exact hs
  · cases hacc with
    | recal1 => exact smooth_ne_zero _ _ _
    | _ => exact hs

theorem engines_msyncOk (i : CycleIn) (s m : State) (hcfg : m.cfg = s.cfg) (hm : m.msync.calib ≠ 0) (hs : MsyncOk s) :
    MsyncOk (engines i s m) := by
  obtain ⟨_, hdepth⟩ := hs
  refine ⟨by simpa using hm, fun hd => ?_⟩
  have hd : s.cfg.tickPendDepth = 0 := by simpa [hcfg] using hd
  simpa using tickPendNext_depth_zero i s hd (hdepth hd)

/-! ## Which engine runs -/

/-- No TX, so LTX is idle: its cycle counts `lowRun` and completes nothing. -/
theorem ltxCycle_of_not_tx (s m : State) (h : LtxOk s) (hop : s.cmd.curOp ≠ .tx) :
    ltxCycle s m = { m with ltx := ltxNext s m.ltx } := by
  have hidle : s.ltx.txPhase = .idle := h.1.2 hop
  simp [ltxCycle, txLastCycle, hidle]

/-- No RTC command, so RTCM is in no segment. -/
theorem rtSeg_of_not_rtc (s : State) (h : RtcmOk s) (hop : isRtcOp s.cmd.curOp = false) : s.rtcm.rtSeg = none := by
  by_contra hseg
  simp [h.1.2 hseg] at hop

theorem isRtcOp_false_of_tx {op : CurOp} (h : op = .tx) : isRtcOp op = false := by simp [h, isRtcOp]

theorem isRtcOp_ne_tx {op : CurOp} (h : isRtcOp op = true) : op ≠ .tx := by
  rintro rfl
  simp [isRtcOp] at h

/-- While no RTC command runs the engines' writes but MSYNC's are LTX's. -/
theorem engines_of_not_rtc (i : CycleIn) (s m : State) (h : RtcmOk s) (hop : isRtcOp s.cmd.curOp = false) :
    engines i s m = msyncCycle i s (ltxCycle s m) := by
  rw [engines, rtcmCycle_idle i s _ (rtSeg_of_not_rtc s h hop)]

/-- In an idle block the engines leave the command processor to the host. -/
theorem engines_cmd_of_idle (i : CycleIn) (s m : State) (hl : LtxOk s) (hr : RtcmOk s) (hop : s.cmd.curOp = .none) :
    (engines i s m).cmd = m.cmd := by
  rw [engines_of_not_rtc i s m hr (by simp [hop, isRtcOp]), ltxCycle_of_not_tx s m hl (by simp [hop])]
  rfl

/-! ## LTX -/

/-- `led_o` apart, LTX's invariant is about its unit; with `led_o` driven from the waveform it is whole. -/
theorem ltxOk_of_driven (t : State) (level : Bool) (h : LtxUnitOk t.cfg t.cmd.curOp t.ltx)
    (hl : ledLevel t = .next level) : LtxOk { t with ltx := { t.ltx with ledO := level } } := by
  obtain ⟨hidle, hbit, hlow, hcyc, hwait, hbits, hlatch⟩ := h
  have hled : level = ledPattern t := by simpa [ledLevel_eq_pattern t hbit] using hl.symm
  exact ⟨hidle, hbit, hlow, hcyc, hwait, hbits, hlatch, hled⟩

/-- The engines keep LTX's invariant but for `led_o`: a TX runs on or completes, starts, or LTX stays idle. -/
theorem engines_ltxUnitOk (i : CycleIn) (s m : State) (h : hostAccess i s = .next m) (hs : s.Inv) :
    LtxUnitOk s.cfg (engines i s m).cmd.curOp (engines i s m).ltx := by
  have hl := hs.ltxOk
  rw [engines_ltx]
  rcases hostAccess_units i s m h with ⟨c, rfl, hop⟩ | ⟨hnone, c, hacc⟩
  · by_cases htx : s.cmd.curOp = .tx
    · have hcur : (engines i s { s with cmd := c }).cmd.curOp = if txLastCycle s then .none else .tx := by
        rw [engines_of_not_rtc i s _ hs.rtcmOk (isRtcOp_false_of_tx htx), msyncCycle_cmd, ltxCycle_cmd]
        split
        · rfl
        · exact hop.trans htx
      rw [hcur]
      exact ltxNext_ok s hs.cfgOk hl htx
    · have hne : (engines i s { s with cmd := c }).cmd.curOp ≠ .tx := by
        rcases engines_cmd i s { s with cmd := c } with he | he
        · simpa [he, hop] using htx
        · simp [he]
      exact ltxNext_idle_ok s _ hl htx hne
  · have hntx : s.cmd.curOp ≠ .tx := by simp [hnone]
    rw [engines_cmd_of_idle i s m hl hs.rtcmOk hnone]
    rcases hacc.ltx hnone with ⟨htx, hltx⟩ | ⟨htx, hltx⟩
    · rw [htx, hltx]
      exact ltxNext_start_ok s hs.cfgOk hl hntx
    · rw [hltx]
      exact ltxNext_idle_ok s _ hl hntx htx

/-! ## RTCM -/

/-- RTCM's invariant reads the parameters, `curOp` and RTCM alone. -/
theorem rtcmOk_congr {s t : State} (hcfg : t.cfg = s.cfg) (hop : t.cmd.curOp = s.cmd.curOp) (hr : t.rtcm = s.rtcm)
    (h : RtcmOk s) : RtcmOk t := by
  obtain ⟨hrun, hrest, hseg, hregs⟩ := h
  have hsegs : segments t = segments s := segments_congr s t hop (by rw [hr])
  refine ⟨by rw [hop, hr]; exact hrun, by rw [hr]; exact hrest, ?_, by rw [hcfg, hr, hop]; exact hregs⟩
  have hstop : stopIndex t = stopIndex s := by simp [stopIndex, hsegs]
  simpa only [segmentOk, SegmentOk, hr, hsegs, hstop] using hseg

/-- Between operations RTCM does not run, `curOp` makes no difference to its invariant. -/
theorem rtcmOk_of_not_rtc {s t : State} (hcfg : t.cfg = s.cfg) (hr : t.rtcm = s.rtcm)
    (hs : isRtcOp s.cmd.curOp = false) (ht : isRtcOp t.cmd.curOp = false) (h : RtcmOk s) : RtcmOk t := by
  have hseg := rtSeg_of_not_rtc s h hs
  have hrd : t.cmd.curOp ≠ .rtcrd := by
    intro hop
    simp [isRtcOp, hop] at ht
  obtain ⟨_, hrest, _, hcnt, hwait, htime, hheld, hraw, hbus, hpend, _⟩ := h
  rw [← hr] at hseg hrest hcnt hwait htime hheld hraw hbus hpend
  exact ⟨by simp [ht, hseg], hrest, by simp [segmentOk, hseg], hcfg ▸ hcnt, hcfg ▸ hwait, htime, hheld, hraw, hbus, hpend,
    by simp [ht], fun h => absurd h hrd⟩

/-- An accepted RTC command enters START with the bus-error fields clear (spec/43_rtc.md R201, R205, R211). -/
theorem Accepted.rtcmOk {s m : State} {c : Instr} (h : Accepted s c m) (hp : s.cfg.Ok) (hop : s.cmd.curOp = .none)
    (hs : RtcmOk s) : RtcmOk m := by
  have hidle : isRtcOp s.cmd.curOp = false := by simp [hop, isRtcOp]
  have hrest : s.rtcm.rtSeg = none → RtcmResting s.rtcm := hs.2.1
  obtain ⟨_, _, herr, _⟩ := hrest (rtSeg_of_not_rtc s hs hidle)
  obtain ⟨htime, hheld, hraw, _, hpend, _⟩ := rtcmRegsOk_of_rtcmOk hs
  cases h with
  | tx => exact rtcmOk_of_not_rtc (s := s) rfl rfl hidle rfl hs
  | rtcrd =>
    exact enterSegment_rtcmOk 0 startSeg
      (acceptLong .rtcrd { s with rtcm := { clearBusError s.rtcm with secChg := false } }) hp rfl (segments_zero _ rfl)
      (fun hne => absurd herr hne) ⟨htime, hheld, hraw, ⟨by simp, by simp⟩, hpend, by simp, by simp⟩
  | rtcwr a b d hr =>
    exact enterSegment_rtcmOk 0 startSeg
      (acceptLong .rtcwr { s with rtcm := { clearBusError s.rtcm with
        held := { hour := BitVec.ofNat 5 a, min := BitVec.ofNat 6 b, sec := BitVec.ofNat 6 d } } })
      hp rfl (segments_zero _ rfl) (fun hne => absurd herr hne)
      ⟨htime, timeInRange_held a b d hr, hraw, ⟨by simp, by simp⟩, hpend, by simp, by simp⟩
  | nop | clear | pset | padd | pget | setoff | recal0 | recal1 => exact rtcmOk_congr rfl rfl rfl hs

/-- The engines keep RTCM's invariant: an RTC command runs on or ends, starts, or RTCM stays idle. -/
theorem engines_rtcmOk (i : CycleIn) (s m : State) (h : hostAccess i s = .next m) (hs : s.Inv) :
    RtcmOk (engines i s m) := by
  have hr := hs.rtcmOk
  rcases hostAccess_units i s m h with ⟨c, rfl, hop⟩ | ⟨hnone, c, hacc⟩
  · by_cases hrtc : isRtcOp s.cmd.curOp = true
    · have hltx := ltxCycle_of_not_tx s { s with cmd := c } hs.ltxOk (isRtcOp_ne_tx hrtc)
      have hrun : RtcmOk (rtcmCycle i s (ltxCycle s { s with cmd := c })) :=
        rtcmCycle_rtcmOk i s _ hs.cfgOk (by simp) (by rw [hltx]; exact hop) (by simp) hr
      exact rtcmOk_congr rfl rfl rfl hrun
    · have hrtc : isRtcOp s.cmd.curOp = false := by simpa using hrtc
      have hnot : isRtcOp (engines i s { s with cmd := c }).cmd.curOp = false := by
        rcases engines_cmd i s { s with cmd := c } with he | he
        · simpa [he, hop] using hrtc
        · simp [he, isRtcOp]
      refine rtcmOk_of_not_rtc (by simp) ?_ hrtc hnot hr
      simp [engines_of_not_rtc i s _ hr hrtc]
  · have hrtc : isRtcOp s.cmd.curOp = false := by simp [hnone, isRtcOp]
    refine rtcmOk_congr (by simp) ?_ ?_ (hacc.rtcmOk hs.cfgOk hnone hr)
    · rw [engines_cmd_of_idle i s m hs.ltxOk hr hnone]
    · simp [engines_of_not_rtc i s m hr hrtc]

/-! ## The invariant -/

/-- The invariant says nothing of the model's bookkeeping. -/
theorem State.Inv.bookkeeping {s : State} (h : s.Inv) (d : Word) (n : Nat) (ins : List CycleIn) :
    State.Inv { s with hRdata := d, cycle := n, inputs := ins } :=
  ⟨h.cfgOk, h.cmdOk, h.fmemOk, h.ltxOk, h.rtcmOk, h.msyncOk⟩

theorem timeOfDay_zero_inRange : TimeOfDay.zero.InRange := by decide

/-- The reset state of legal parameters meets the invariant (spec/10_state.md R41, R42). -/
theorem resetWith_inv (p : Params) (h : p.Ok) : (State.resetWith p).Inv := by
  obtain ⟨hpix, _, _, hbit, hstretch, hframe⟩ := params_positive h
  exact {
    cfgOk := h
    cmdOk := by simp [CmdOk, State.resetWith]
    fmemOk := ⟨resetWith_memory_wf p, by simp [State.resetWith], hpix, by simp [State.resetWith]⟩
    ltxOk := ⟨by simp [State.resetWith], hframe, Nat.zero_le _, fun _ => rfl, by simp [State.resetWith],
      by simp [State.resetWith], by simp [State.resetWith], rfl⟩
    rtcmOk := ⟨by simp [State.resetWith, isRtcOp], fun _ => ⟨rfl, rfl, rfl, rfl, rfl⟩, rfl, hbit, hstretch,
      timeOfDay_zero_inRange, timeOfDay_zero_inRange, by simp [State.resetWith],
      ⟨fun _ => ⟨rfl, rfl⟩, by simp [State.resetWith]⟩, rfl, fun _ => rfl, fun _ => rfl⟩
    msyncOk := ⟨by simp [State.resetWith], fun _ => rfl⟩ }

/-- Every cycle keeps the invariant, whatever its inputs. -/
theorem step_inv (s t : State) (hs : s.Inv) (h : step s = .next t) : t.Inv := by
  rcases step_cases s t h with ⟨_, rfl⟩ | ⟨_, m, level, hm, hl, rfl⟩
  · exact (resetWith_inv s.cfg hs.cfgOk).bookkeeping _ _ _
  · have hcalib : m.msync.calib ≠ 0 := hostAccess_calib _ s m hm hs.msyncOk.1
    have hcfg : m.cfg = s.cfg := hostAccess_cfg _ s m hm
    have hcfg' : (engines (currentInput s) s m).cfg = s.cfg := (engines_cfg _ s m).trans hcfg
    refine State.Inv.bookkeeping
      (s := { engines (currentInput s) s m with ltx := { (engines (currentInput s) s m).ltx with ledO := level } })
      ?_ _ _ _
    exact {
      cfgOk := hcfg' ▸ hs.cfgOk
      cmdOk := engines_cmdOk _ s m (hostAccess_cmdOk _ s m hm hs.cmdOk)
      fmemOk := engines_fmemOk _ s m (hostAccess_fmemOk _ s m hm hs.cfgOk hs.fmemOk)
      ltxOk := ltxOk_of_driven _ level (hcfg' ▸ engines_ltxUnitOk _ s m hm hs) hl
      rtcmOk := engines_rtcmOk _ s m hm hs
      msyncOk := engines_msyncOk _ s m hcfg hcalib hs.msyncOk }

/-- Every reachable state meets the invariant. -/
theorem reachable_inv (s : State) (h : Reachable s) : s.Inv := by
  induction h with
  | reset p n ins d hp => exact (resetWith_inv p hp).bookkeeping d n ins
  | step s t _ hstep ih => exact step_inv s t ih hstep

end Sys2Proof.Machine
end

section
/-! PROOFS. The state and its reset values (spec/10_state.md R41, R42). -/

namespace Sys2Proof.Machine

/-! ## Registers the host reads -/

/-- STATUS.BUSY (R25, R38). -/
theorem statusWord_bit_busy (s : State) : (statusWord s).getLsbD 0 = s.busy := by
  simp [statusWord, place]

/-- STATUS.TXACT (R25, R38). -/
theorem statusWord_bit_txAct (s : State) : (statusWord s).getLsbD 1 = s.txAct := by
  simp [statusWord, place]

/-- ELAPSED (R29). -/
theorem regRead_elapsed (s : State) :
    regRead s 6 = (BitVec.ofNat 10 (elapsedMs s.msync.rawTicks s.msync.calib)).setWidth 32 := rfl

/-- ELAPSED reads 0 while no tick has been counted. -/
theorem regRead_elapsed_of_no_ticks (s : State) (h : s.msync.rawTicks = 0) : regRead s 6 = 0 := by
  rw [regRead_elapsed]
  simp [elapsedMs, h]

/-- ELAPSED reads at most 1000 (spec/44_millis.md R236). -/
theorem regRead_elapsed_le (s : State) : (regRead s 6).toNat ≤ 1000 := by
  have hle : elapsedMs s.msync.rawTicks s.msync.calib ≤ 1000 := Nat.min_le_left _ _
  rw [regRead_elapsed]
  simp only [BitVec.toNat_setWidth, BitVec.toNat_ofNat]
  omega

/-! ## The pending tick -/

/-- A tick is held at the end of a cycle only if TX ran in it (spec/44_millis.md R234, R235). -/
theorem step_tickPend (s t : State) (h : step s = .next t) (hp : t.msync.tickPend = true) : s.cmd.curOp = .tx := by
  rcases step_cases s t h with ⟨_, rfl⟩ | ⟨_, m, level, _, _, rfl⟩
  · cases hp
  · by_contra hop
    simp [tickPendNext_unmasked _ s ((txAct_eq_false s).2 hop)] at hp

/-- A held tick of a reachable state was left by a cycle that began in a TX. -/
theorem reachable_tickPend (s : State) (h : Reachable s) (hp : s.msync.tickPend = true) :
    ∃ r, Reachable r ∧ step r = .next s ∧ r.cmd.curOp = .tx := by
  cases h with
  | reset p n ins d hok => cases hp
  | step r _ hr hstep => exact ⟨r, hr, hstep, step_tickPend r s hstep hp⟩

/-- A tick that comes while a TX runs is held in a reachable state (R234): the TX is accepted in the first cycle. -/
theorem exists_reachable_tickPend : ∃ s, Reachable s ∧ s.msync.tickPend = true := by
  have hreset := Reachable.reset Params.reference 0
    [withWrite quietCycle 0 (encode .tx), { quietCycle with tick := true }] 0 (by decide)
  have htx := hreset.step _ _ rfl
  exact ⟨_, htx.step _ _ rfl, rfl⟩

/-! ## The obligations -/

/-- Settles O60: each item is a part of the invariant of reachable states, but for the pending tick, which the last cycle
decides. -/
theorem reachableStatesSatisfyR42 : Obligations.ReachableStatesSatisfyR42 := by
  unfold Obligations.ReachableStatesSatisfyR42
  intro s hs
  have hinv := reachable_inv s hs
  obtain ⟨hrej, _⟩ := hinv.cmdOk
  obtain ⟨hne, _⟩ := hinv.msyncOk
  obtain ⟨_, _, hoff, _⟩ := hinv.fmemOk
  obtain ⟨_, _, _, _, _, ⟨hhour, hmin, hsec⟩, _, _, ⟨hbus, _⟩, _⟩ := hinv.rtcmOk
  have hcalib : 1 ≤ s.msync.calib.toNat := by
    have hpos : s.msync.calib.toNat ≠ 0 := fun h => hne (BitVec.eq_of_toNat_eq h)
    omega
  have htx : (statusWord s).getLsbD 1 = true → (statusWord s).getLsbD 0 = true := by
    rw [statusWord_bit_txAct, statusWord_bit_busy, txAct_eq_true, busy_eq_true]
    intro hop
    simp [hop]
  exact ⟨hcalib, hhour, hmin, hsec, regRead_elapsed_le s, hoff, htx, hbus, hrej.1,
    fun hp => .inr (reachable_tickPend s hs hp)⟩

/-- A state right after reset is the reset state of its parameters but for the model's bookkeeping (R41, R290). -/
theorem afterReset_eq (p : Params) (s : State)
    (h : s = State.resetWith p ∨ ∃ r, r.cfg = p ∧ (currentInput r).rst = true ∧ step r = .next s) :
    ∃ d n ins, s = { State.resetWith p with hRdata := d, cycle := n, inputs := ins } := by
  rcases h with rfl | ⟨r, rfl, hrst, hstep⟩
  · exact ⟨_, _, _, rfl⟩
  · rw [step_of_rst r hrst] at hstep
    cases hstep
    exact ⟨_, _, _, rfl⟩

theorem statusWord_resetWith (p : Params) : statusWord (State.resetWith p) = 0 := by
  simp [statusWord, State.resetWith, State.txAct, State.busy, place, rejBits, phaseBit, busBits]

theorem timeWord_zero : timeWord TimeOfDay.zero = 0 := by decide

/-- Settles O56: every value of R41 is read off the reset state, whose bookkeeping none of them reads. -/
theorem resetValues : Obligations.ResetValues := by
  unfold Obligations.ResetValues
  intro p s h
  obtain ⟨d, n, ins, rfl⟩ := afterReset_eq p s h
  exact ⟨rfl, statusWord_resetWith p, rfl, timeWord_zero, rfl, rfl, rfl, rfl, Memory.read_empty, rfl, rfl, rfl, rfl, rfl, rfl, rfl, rfl, rfl,
    regRead_elapsed_of_no_ticks _ rfl, rfl⟩

end Sys2Proof.Machine
end

section
/-! PROOFS. The host register map (spec/20_memory.md R61). -/

namespace Sys2Proof.Machine

/-! ## Reads -/

/-- ELAPSED at the width of the bus: 1000 is the largest value and fits the ten bits of the register (R29). -/
theorem regRead_elapsed_eq_min (s : State) :
    regRead s 6 = BitVec.ofNat 32 (min 1000 (s.msync.rawTicks.toNat * 1000 / s.msync.calib.toNat)) := by
  have hfits : elapsedMs s.msync.rawTicks s.msync.calib < 2 ^ 10 :=
    Nat.lt_of_le_of_lt (Nat.min_le_left _ _) (by decide)
  rw [regRead_elapsed, BitVec.setWidth_ofNat_of_le_of_lt (by decide) hfits, elapsedMs]

/-- An unmapped index reads 0. -/
theorem regRead_unmapped (s : State) (a : BitVec 4) (h : 11 ≤ a.toNat) : regRead s a = 0 := by
  unfold regRead
  split
  case h_12 => rfl
  all_goals omega

/-! ## Writes -/

@[simp] theorem regWrite_cmd (v : Word) (s : State) : regWrite 0 v s = issueCommand v s := rfl

@[simp] theorem regWrite_arg (v : Word) (s : State) :
    regWrite 1 v s = .next { s with cmd := { s.cmd with arg := v } } := rfl

/-- Every register above ARG is read-only or unmapped. -/
theorem regWrite_of_two_le (v : Word) (s : State) (a : BitVec 4) (h : 2 ≤ a.toNat) : regWrite a v s = .next s := by
  unfold regWrite
  split
  case h_3 => rfl
  all_goals omega

/-! ## The obligation -/

/-- Settles O52: the mapped indices are numerals, so each read but ELAPSED is its arm of the decoder; ELAPSED and the ranges of
unmapped and read-only indices have a lemma each. -/
theorem registerMap : Obligations.RegisterMap := by
  unfold Obligations.RegisterMap
  intro s v
  exact ⟨rfl, rfl, rfl, rfl, rfl, rfl, regRead_elapsed_eq_min s, rfl, rfl, rfl, rfl, regRead_unmapped s,
    regWrite_cmd v s, regWrite_arg v s, regWrite_of_two_le v s⟩

end Sys2Proof.Machine
end

section
/-! PROOFS. The command encoding (spec/30_encoding.md): a row of the opcode map is an opcode and the bits reserved under it. -/

namespace Sys2Proof

/-! ## Words a mask selects -/

/-- Where a pattern lies under the mask `a`, a mask of `a` and the bits `b` apart from it asks two things of a word. -/
theorem and_or_eq_iff (w a b pat : Word) (hab : a &&& b = 0#32) (hpat : pat &&& a = pat) :
    w &&& (a ||| b) = pat ↔ w &&& a = pat ∧ w &&& b = 0#32 := by
  have hleft : (a ||| b) &&& a = a := by ext k hk; simp +contextual
  have hright : (a ||| b) &&& b = b := by ext k hk; simp +contextual
  constructor
  · intro h
    have ha : w &&& a = pat := by rw [← hleft, ← BitVec.and_assoc, h, hpat]
    have hb : w &&& b = 0#32 := by rw [← hright, ← BitVec.and_assoc, h, ← hpat, BitVec.and_assoc, hab, BitVec.and_zero]
    exact ⟨ha, hb⟩
  · rintro ⟨ha, hb⟩
    rw [BitVec.and_or_distrib_left, ha, hb, BitVec.or_zero]

/-- The bits of the opcode are the opcode at its place. -/
theorem and_opcodeMask (w : Word) : w &&& 0xF0000000#32 = place (w.extractLsb' 28 4) 28 := by
  simp only [place]
  ext k hk
  interval_cases k <;> simp

/-- Nothing of the opcode is lost at its place. -/
theorem extract_place_opcode (op : BitVec 4) : (place op 28).extractLsb' 28 4 = op := by
  simp only [place]
  ext k hk
  interval_cases k <;> simp

/-- The opcode's mask asks for the opcode (R90). -/
theorem and_opcodeMask_eq_iff (w : Word) (op : BitVec 4) :
    w &&& 0xF0000000#32 = place op 28 ↔ opcodeField w = op.toNat := by
  rw [opcodeField, field, BitVec.toNat_inj, and_opcodeMask]
  constructor
  · intro h
    rw [← extract_place_opcode (w.extractLsb' 28 4), h, extract_place_opcode]
  · rintro rfl
    rfl

/-! ## The rows of the opcode map -/

/-- The opcode of a command's row (R97). -/
def Instr.opcode : Instr → BitVec 4
  | .nop => 0x0
  | .tx => 0x1
  | .clear => 0x2
  | .pset _ => 0x3
  | .padd _ => 0x4
  | .pget _ => 0x5
  | .setoff _ => 0x6
  | .rtcrd => 0x7
  | .rtcwr _ _ _ => 0x8
  | .recal _ => 0x9

/-- A row's mask is the opcode and the reserved bits of its format, its match the opcode alone. -/
theorem Instr.row_eq (c : Instr) :
    c.row = (0xF0000000#32 ||| Machine.reservedBits c.opcode.toNat, place c.opcode 28) := by
  cases c <;> simp [Instr.row, Instr.opcode, Machine.reservedBits, place]

/-- No format reserves a bit of the opcode. -/
theorem opcodeMask_and_reservedBits (op : Nat) : 0xF0000000#32 &&& Machine.reservedBits op = 0#32 := by
  unfold Machine.reservedBits
  split_ifs <;> rfl

/-- A row selects the words of its opcode whose reserved bits are 0. -/
theorem rowMatches_row_iff (w : Word) (c : Instr) :
    rowMatches w c.row.1 c.row.2 = true ↔
      opcodeField w = c.opcode.toNat ∧ w &&& Machine.reservedBits (opcodeField w) = 0#32 := by
  have hpat : place c.opcode 28 &&& 0xF0000000#32 = place c.opcode 28 := by
    rw [and_opcodeMask, extract_place_opcode]
  rw [rowMatches, beq_iff_eq, Instr.row_eq, and_or_eq_iff w _ _ _ (opcodeMask_and_reservedBits _) hpat, and_opcodeMask_eq_iff]
  exact and_congr_right fun hop => by rw [hop]

/-- Commands of one opcode have one row. -/
theorem Instr.row_eq_of_opcode_eq {c d : Instr} (h : c.opcode = d.opcode) : c.row = d.row := by
  rw [row_eq, row_eq, h]

/-- No word is of two rows. -/
theorem row_eq_of_rowMatches {w : Word} {c d : Instr} (hc : rowMatches w c.row.1 c.row.2 = true)
    (hd : rowMatches w d.row.1 d.row.2 = true) : d.row = c.row := by
  obtain ⟨hcop, _⟩ := (rowMatches_row_iff w c).1 hc
  obtain ⟨hdop, _⟩ := (rowMatches_row_iff w d).1 hd
  exact Instr.row_eq_of_opcode_eq (BitVec.eq_of_toNat_eq (hdop.symm.trans hcop))

/-- The opcodes of the rows are 0 to 9. -/
theorem exists_opcode_iff (n : Nat) : (∃ c : Instr, n = c.opcode.toNat) ↔ n < 0xA := by
  constructor
  · rintro ⟨c, rfl⟩
    cases c <;> simp [Instr.opcode]
  · intro h
    interval_cases n
    exacts [⟨.nop, rfl⟩, ⟨.tx, rfl⟩, ⟨.clear, rfl⟩, ⟨.pset 0, rfl⟩, ⟨.padd 0, rfl⟩, ⟨.pget 0, rfl⟩, ⟨.setoff 0, rfl⟩,
      ⟨.rtcrd, rfl⟩, ⟨.rtcwr 0 0 0, rfl⟩, ⟨.recal false, rfl⟩]

/-- The words some row selects. -/
theorem exists_rowMatches_iff (w : Word) :
    (∃ c : Instr, rowMatches w c.row.1 c.row.2 = true) ↔
      opcodeField w < 0xA ∧ w &&& Machine.reservedBits (opcodeField w) = 0#32 := by
  simp only [rowMatches_row_iff, exists_and_right, exists_opcode_iff]

/-! ## The decoder -/

/-- A chain of tests that answers a command: the first test chose it, or the rest of the chain did. -/
theorem of_ite_eq_ok {p : Prop} [Decidable p] {c d : Instr} {rest : Except Illegal Instr}
    (h : (if p then .ok c else rest) = .ok d) : p ∧ c = d ∨ rest = .ok d := by
  split_ifs at h with hp
  · exact .inl ⟨hp, Except.ok.inj h⟩
  · exact .inr h

/-- A chain of tests that answers ILLEGAL: the first test failed, and the rest of the chain answers ILLEGAL. -/
theorem ite_ok_eq_error_iff (p : Prop) [Decidable p] (c : Instr) (e : Illegal) (rest : Except Illegal Instr) :
    (if p then .ok c else rest) = .error e ↔ ¬p ∧ rest = .error e := by
  split_ifs with hp <;> simp [hp]

/-- The end of the chain answers ILLEGAL, whichever the reason. -/
theorem ite_error_ne_ok (p : Prop) [Decidable p] (e₁ e₂ : Illegal) (c : Instr) :
    (if p then Except.error e₁ else .error e₂) ≠ .ok c := by
  split_ifs <;> simp

/-- A word that decodes is of the row of its command. -/
theorem rowMatches_of_decode_ok {w : Word} {c : Instr} (h : decode w = .ok c) :
    rowMatches w c.row.1 c.row.2 = true := by
  unfold decode at h
  iterate 10
    obtain ⟨hrow, rfl⟩ | h := of_ite_eq_ok h
    · exact hrow
  exact absurd h (ite_error_ne_ok _ _ _ c)

/-- An ILLEGAL word is of no row: the decoder tries them all. -/
theorem rowMatches_of_decode_error {w : Word} {e : Illegal} (h : decode w = .error e) (c : Instr) :
    rowMatches w c.row.1 c.row.2 = false := by
  simp only [decode, ite_ok_eq_error_iff, Bool.not_eq_true] at h
  obtain ⟨h0, h1, h2, h3, h4, h5, h6, h7, h8, h9, -⟩ := h
  cases c
  exacts [h0, h1, h2, h3, h4, h5, h6, h7, h8, h9]

/-- The ILLEGAL words are those of no row (R98). -/
theorem exists_decode_error_iff (w : Word) :
    (∃ e, decode w = .error e) ↔ ¬∃ c : Instr, rowMatches w c.row.1 c.row.2 = true := by
  constructor
  · rintro ⟨e, h⟩ ⟨c, hc⟩
    simp [rowMatches_of_decode_error h c] at hc
  · intro hnone
    cases h : decode w with
    | ok c => exact absurd ⟨c, rowMatches_of_decode_ok h⟩ hnone
    | error e => exact ⟨e, rfl⟩

namespace Machine

/-- An ILLEGAL word is rejected: with BUSY if a command runs, with ILLEGAL otherwise (R120). -/
theorem issueCommand_of_decode_error {w : Word} {e : Illegal} (h : decode w = .error e) (s : State) :
    issueCommand w s = .next (reject (if s.busy then .busy else .illegal) s) := by
  simp only [issueCommand, h]

/-! ## The obligation -/

/-- Settles O3: ILLEGAL is to be of no row, a row is an opcode below 0xA with its reserved bits 0, and an opcode has one row. -/
theorem illegalWordsAreTheReservedOnes : Obligations.IllegalWordsAreTheReservedOnes := by
  unfold Obligations.IllegalWordsAreTheReservedOnes
  intro w
  refine ⟨?_, fun _ h => rowMatches_of_decode_error h, fun c h => ?_, fun e s h hidle => ?_⟩
  · rw [exists_decode_error_iff, exists_rowMatches_iff, not_and_or, Nat.not_lt]
    rfl
  · have hc := rowMatches_of_decode_ok h
    exact ⟨hc, fun _ hd => row_eq_of_rowMatches hc hd⟩
  · rw [issueCommand_of_decode_error h, (busy_eq_false s).2 hidle]
    rfl

end Machine

end Sys2Proof
end

section
/-! PROOFS. The command processor (spec/40_command.md): a decoded command is accepted exactly as its rule says, or rejected. -/

namespace Sys2Proof

/-! ## Words by opcode -/

/-- A word that decodes has the opcode of its command and no reserved bit set. -/
theorem opcodeField_of_decode_ok {w : Word} {c : Instr} (h : decode w = .ok c) :
    opcodeField w = c.opcode.toNat ∧ w &&& Machine.reservedBits (opcodeField w) = 0 :=
  (rowMatches_row_iff w c).1 (rowMatches_of_decode_ok h)

/-- The reason "reserved opcode" is given for reserved opcodes only (R98). -/
theorem opcodeField_of_reservedOpcode {w : Word} (h : decode w = .error .reservedOpcode) : 0xA ≤ opcodeField w := by
  simp only [decode, ite_ok_eq_error_iff] at h
  obtain ⟨-, -, -, -, -, -, -, -, -, -, hlast⟩ := h
  split_ifs at hlast with hop
  · exact hop
  · cases hlast

/-- The words of one opcode are decoded once it is known which commands of that opcode a word decodes to: the rest is whether
a reserved bit is set. -/
theorem decodesAs_of_decode_ok {op : Nat} {instr : Word → Instr} (hop : op < 0xA)
    (hinstr : ∀ w c, decode w = .ok c → c.opcode.toNat = op → c = instr w) : Machine.DecodesAs op instr := by
  rintro w rfl
  cases h : decode w with
  | ok c =>
    obtain ⟨hc, hres⟩ := opcodeField_of_decode_ok h
    rw [if_pos hres, hinstr w c h hc.symm]
  | error e =>
    have hres : w &&& Machine.reservedBits (opcodeField w) ≠ 0 := fun hzero =>
      (exists_decode_error_iff w).1 ⟨e, h⟩ ((exists_rowMatches_iff w).2 ⟨hop, hzero⟩)
    rw [if_neg hres]
    cases e with
    | reservedOpcode => exact absurd (opcodeField_of_reservedOpcode h) (Nat.not_le.2 hop)
    | reservedBits => rfl

namespace Machine

/-! ## Issue -/

/-- A decoded word issues its command. -/
theorem issueCommand_of_decode_ok {w : Word} {c : Instr} (h : decode w = .ok c) (s : State) :
    issueCommand w s = exec c s := by
  simp only [issueCommand, h]

/-- Every command is rejected with BUSY while a long command runs (R120). -/
theorem exec_of_busy (c : Instr) (s : State) (h : s.cmd.curOp ≠ .none) :
    exec c s = .next { s with cmd := s.cmd.rejected .busy } := by
  have hb : s.busy = true := (busy_eq_true s).2 h
  cases c <;> exact issue_busy _ s _ hb

/-- A command whose operand check passes answers, in an idle block, what its own rule answers. -/
theorem issue_of_accepted {ok : Bool} {s : State} (hidle : s.busy = false) (hok : ok = true)
    (o : Host.Outcome State Fault Refusal) : issue ok s o = o := by
  rw [hok, issue_ok s o hidle]

/-- A chain goes on with what its first part answers. -/
theorem bindNext_of_eq_next {α β : Type} {o : Host.Outcome α Fault Refusal} {a : α} (h : o = .next a)
    (f : α → Host.Outcome β Fault Refusal) : bindNext o f = f a := by
  rw [h, bindNext_next]

/-- The range check of RTCWR is its row of the table of ArgOk (R127). -/
theorem timeInRange_eq_argOk (p : Params) (h m x : Nat) : timeInRange h m x = argOk p (.rtcwr h m x) := by
  simp [timeInRange, argOk, Bool.and_assoc]

/-- An idle block accepts every command whose operands are in range: no frame access of an accepted command faults, as the
pixels it touches are slots of the frame (R64). -/
theorem exec_accepts {c : Instr} {s : State} (hidle : s.busy = false) (hpix : 1 ≤ s.cfg.nPix)
    (hok : argOk s.cfg c = true) : ∃ t, exec c s = .next t ∧ Accepted s c t := by
  cases c with
  | nop => exact ⟨_, issue_ok s _ hidle, .nop⟩
  | tx => exact ⟨_, issue_ok s _ hidle, .tx⟩
  | clear => exact ⟨_, issue_ok s _ hidle, .clear⟩
  | pset i => exact ⟨_, (issue_ok s _ hidle).trans (writePixel_of_lt _ _ _ (phys_lt s i hpix)), .pset i⟩
  | padd i =>
    have hread := readPixel_of_lt s (phys s i) (phys_lt s i hpix)
    exact ⟨_, (issue_ok s _ hidle).trans <| (bindNext_of_eq_next hread _).trans <|
      writePixel_of_lt _ _ _ (phys_lt s i hpix), .padd i _ hread⟩
  | pget p =>
    have hp : p < s.cfg.nPix := of_decide_eq_true hok
    have hread := readPixel_of_lt s p hp
    exact ⟨_, (issue_of_accepted hidle hok _).trans (bindNext_of_eq_next hread _), .pget p _ hp hread⟩
  | setoff o => exact ⟨_, issue_of_accepted hidle hok _, .setoff o (of_decide_eq_true hok)⟩
  | rtcrd => exact ⟨_, issue_ok s _ hidle, .rtcrd⟩
  | rtcwr h m x =>
    have hr : timeInRange h m x = true := (timeInRange_eq_argOk s.cfg h m x).trans hok
    exact ⟨_, issue_of_accepted hidle hr _, .rtcwr h m x hr⟩
  | recal c =>
    cases c with
    | false => exact ⟨_, issue_ok s _ hidle, .recal0⟩
    | true => exact ⟨_, issue_ok s _ hidle, .recal1⟩

/-! ## Acceptance -/

/-- Acceptance completes an instantaneous command and starts a long one (R121, R122). -/
theorem Accepted.cmd {s t : State} {c : Instr} (h : Accepted s c t) :
    t.cmd = if longOp c = .none then s.cmd.completed else s.cmd.started (longOp c) := by
  cases h <;> rfl

/-- Only the RTC commands touch RTCM at acceptance. -/
theorem Accepted.rtcm_of_not_rtc {s t : State} {c : Instr} (h : Accepted s c t) (hrd : longOp c ≠ .rtcrd)
    (hwr : longOp c ≠ .rtcwr) : t.rtcm = s.rtcm := by
  cases h with
  | rtcrd => exact absurd rfl hrd
  | rtcwr => exact absurd rfl hwr
  | _ => rfl

/-- The RTC commands clear the bus-error fields at acceptance, RTCRD also SECCHG (spec/43_rtc.md R211). -/
theorem Accepted.busErrorFields {s t : State} {c : Instr} (h : Accepted s c t)
    (hc : longOp c = .rtcrd ∨ longOp c = .rtcwr) :
    t.rtcm.busErr = false ∧ t.rtcm.busPhase = .write ∧ t.rtcm.busCode = .none ∧
      t.rtcm.secChg = if longOp c = .rtcrd then false else s.rtcm.secChg := by
  cases h with
  | rtcrd => exact ⟨rfl, rfl, rfl, rfl⟩
  | rtcwr => exact ⟨rfl, rfl, rfl, rfl⟩
  | _ => simp [longOp] at hc

/-! ## The obligations -/

/-- Settles O7: an idle block accepts the command, and each part is read off what the acceptance leaves. -/
theorem acceptanceEffects : Obligations.AcceptanceEffects := by
  unfold Obligations.AcceptanceEffects
  intro w c s hidle hpix hdec hok
  obtain ⟨t, ht, hacc⟩ := exec_accepts ((busy_eq_false s).2 hidle) hpix hok
  exact ⟨t, (issueCommand_of_decode_ok hdec s).trans ht, hacc.cmd, hacc.rtcm_of_not_rtc, hacc.busErrorFields⟩

/-- NOP is the one command of opcode 0 (R124). -/
theorem eq_nop_of_opcode {c : Instr} (h : c.opcode.toNat = 0) : c = .nop := by
  cases c with
  | nop => rfl
  | _ => simp [Instr.opcode] at h

/-- Settles O9: opcode 0 has no other command, and NOP's issue is acceptance alone, or BUSY. -/
theorem nopResult : Obligations.NopResult := by
  unfold Obligations.NopResult
  refine ⟨decodesAs_of_decode_ok (by decide) fun _ _ _ hop => eq_nop_of_opcode hop, fun s => ⟨fun hidle => ?_, ?_⟩⟩
  · exact issue_ok s _ ((busy_eq_false s).2 hidle)
  · exact exec_of_busy .nop s

end Machine

end Sys2Proof
end

section
/-! PROOFS. The frame memory (spec/41_framebuffer.md): what its five commands write, and that nothing else writes its
registers, ARG or the record of a rejection. -/

namespace Sys2Proof

/-! ## Words by opcode, all rows at once -/

/-- The command an opcode of the map stands for, with its operands taken from the fields of a word (R95, R97). Nothing is
said of opcodes above 9. -/
def commandOfOpcode (op : Nat) (w : Word) : Instr :=
  match op with
  | 0 => .nop
  | 1 => .tx
  | 2 => .clear
  | 3 => .pset (idxField w)
  | 4 => .padd (idxField w)
  | 5 => .pget (idxField w)
  | 6 => .setoff (idxField w)
  | 7 => .rtcrd
  | 8 => .rtcwr (hourField w) (minuteField w) (secondField w)
  | _ => .recal (cField w)

/-- The operands of a decoded command are the fields of its word. -/
theorem eq_commandOfOpcode_of_decode_ok {w : Word} {c : Instr} (h : decode w = .ok c) :
    c = commandOfOpcode c.opcode.toNat w := by
  unfold decode at h
  iterate 10
    obtain ⟨-, rfl⟩ | h := of_ite_eq_ok h
    · rfl
  exact absurd h (ite_error_ne_ok _ _ _ c)

/-- The words of an opcode of the map decode to its command, or are ILLEGAL (R97, R98). -/
theorem decodesAs_commandOfOpcode {op : Nat} (hop : op < 0xA) : Machine.DecodesAs op (commandOfOpcode op) :=
  decodesAs_of_decode_ok hop fun _ _ h hc => hc ▸ eq_commandOfOpcode_of_decode_ok h

namespace Machine

/-! ## Colors and slots -/

/-- SatAdd8 on numbers (R130): the sum never reaches the byte's wrap. -/
theorem satAdd8_toNat (a b : Byte) : (satAdd8 a b).toNat = min 255 (a.toNat + b.toNat) := by
  simp only [satAdd8, sat8, BitVec.toNat_ofNat]
  omega

/-- The host color word lane by lane: 0x00RRGGBB (R134). -/
theorem colorWord_eq_append (c : Color) : colorWord c = 0#8 ++ c.r ++ c.g ++ c.b := by
  simp only [colorWord, place]
  refine BitVec.eq_of_getLsbD_eq fun k hk => ?_
  simp only [BitVec.getLsbD_append]
  interval_cases k <;> simp

/-- The color the three bytes of a slot hold: green, red, blue in address order (spec/20_memory.md R62). -/
def Memory.readSlot (m : Memory) (p : Nat) : Color where
  r := m.read (3 * p + 1)
  g := m.read (3 * p)
  b := m.read (3 * p + 2)

/-- A slot of the frame that answers a color answers the one it holds. -/
theorem eq_readSlot_of_readPixel {s : State} {p : Nat} {c : Color} (hp : p < s.cfg.nPix)
    (h : readPixel s p = .next c) : c = s.fmem.fb.readSlot p :=
  Host.Outcome.next.inj (h.symm.trans (readPixel_of_lt s p hp))

section WrittenSlot

variable {m : Memory} (h : m.wf) (p : Nat) (c : Color)
include h

theorem Memory.read_writeSlot_green : (m.writeSlot p c).read (3 * p) = c.g := by
  rw [Memory.read_writeSlot m p _ c h, if_pos rfl]

theorem Memory.read_writeSlot_red : (m.writeSlot p c).read (3 * p + 1) = c.r := by
  rw [Memory.read_writeSlot m p _ c h, if_neg (by omega), if_pos rfl]

theorem Memory.read_writeSlot_blue : (m.writeSlot p c).read (3 * p + 2) = c.b := by
  rw [Memory.read_writeSlot m p _ c h, if_neg (by omega), if_neg (by omega), if_pos rfl]

theorem Memory.read_writeSlot_of_ne {a : Nat} (hg : a ≠ 3 * p) (hr : a ≠ 3 * p + 1) (hb : a ≠ 3 * p + 2) :
    (m.writeSlot p c).read a = m.read a := by
  rw [Memory.read_writeSlot m p _ c h, if_neg hg, if_neg hr, if_neg hb]

end WrittenSlot

/-! ## Issue -/

/-- A command whose operand check fails is rejected with ARG by an idle block. -/
theorem issue_of_refused {ok : Bool} {s : State} (hidle : s.busy = false) (hok : ok = false)
    (o : Host.Outcome State Fault Refusal) : issue ok s o = .next (reject .arg s) := by
  rw [hok, issue_arg s o hidle]

/-- The commands with an operand out of range are rejected with ARG (R127). -/
theorem exec_of_not_argOk {c : Instr} {s : State} (hidle : s.cmd.curOp = .none) (hok : argOk s.cfg c = false) :
    exec c s = .next { s with cmd := s.cmd.rejected .arg } := by
  have hb : s.busy = false := (busy_eq_false s).2 hidle
  cases c with
  | pget p => exact issue_of_refused hb hok _
  | setoff o => exact issue_of_refused hb hok _
  | rtcwr h m x => exact issue_of_refused hb ((timeInRange_eq_argOk s.cfg h m x).trans hok) _
  | _ => cases hok

/-! ## The next state of each accepted command -/

/-- PSET in an idle block (R132). -/
theorem exec_pset_of_idle {s : State} (hidle : s.cmd.curOp = .none) (hpix : 1 ≤ s.cfg.nPix) (i : Nat) :
    exec (.pset i) s = .next { s with
      cmd := s.cmd.completed
      fmem := { s.fmem with fb := s.fmem.fb.writeSlot (phys s i) (colorOf s.cmd.arg) } } := by
  obtain ⟨t, ht, hacc⟩ := exec_accepts (c := .pset i) ((busy_eq_false s).2 hidle) hpix rfl
  cases hacc
  exact ht

/-- PADD in an idle block (R133). -/
theorem exec_padd_of_idle {s : State} (hidle : s.cmd.curOp = .none) (hpix : 1 ≤ s.cfg.nPix) (i : Nat) :
    exec (.padd i) s = .next { s with
      cmd := s.cmd.completed
      fmem := { s.fmem with
        fb := s.fmem.fb.writeSlot (phys s i) (addColor (s.fmem.fb.readSlot (phys s i)) (colorOf s.cmd.arg)) } } := by
  obtain ⟨t, ht, hacc⟩ := exec_accepts (c := .padd i) ((busy_eq_false s).2 hidle) hpix rfl
  cases hacc with
  | padd _ c hc =>
    cases eq_readSlot_of_readPixel (phys_lt s i hpix) hc
    exact ht

/-- PGET of a slot of the frame in an idle block (R134). -/
theorem exec_pget_of_idle {s : State} {p : Nat} (hidle : s.cmd.curOp = .none) (hp : p < s.cfg.nPix) :
    exec (.pget p) s = .next { s with
      cmd := s.cmd.completed
      fmem := { s.fmem with result := colorWord (s.fmem.fb.readSlot p) } } := by
  obtain ⟨t, ht, hacc⟩ := exec_accepts (c := .pget p) ((busy_eq_false s).2 hidle) (by omega) (decide_eq_true hp)
  cases hacc with
  | pget _ c _ hc =>
    cases eq_readSlot_of_readPixel hp hc
    exact ht

/-- SETOFF of a slot of the frame in an idle block (R135). -/
theorem exec_setoff_of_idle {s : State} {o : Nat} (hidle : s.cmd.curOp = .none) (ho : o < s.cfg.nPix) :
    exec (.setoff o) s = .next { s with
      cmd := s.cmd.completed
      fmem := { s.fmem with offset := BitVec.ofNat 16 o } } := by
  obtain ⟨t, ht, hacc⟩ := exec_accepts (c := .setoff o) ((busy_eq_false s).2 hidle) (by omega) (decide_eq_true ho)
  cases hacc
  exact ht

/-! ## Why a write to CMD is rejected, and what it then does -/

theorem rejection_of_busy {s : State} (h : s.cmd.curOp ≠ .none) (w : Word) : rejection s w = some .busy := if_pos h

theorem rejection_of_decode_error {s : State} {w : Word} {e : Illegal} (hidle : s.cmd.curOp = .none)
    (h : decode w = .error e) : rejection s w = some .illegal := by
  simp [rejection, hidle, h]

theorem rejection_of_decode_ok {s : State} {w : Word} {c : Instr} (hidle : s.cmd.curOp = .none)
    (h : decode w = .ok c) : rejection s w = if argOk s.cfg c then none else some .arg := by
  simp [rejection, hidle, h]

/-- The command of a write to CMD that is not rejected: it decodes, in an idle block, and its operands are in range. -/
theorem exists_of_rejection_eq_none {s : State} {w : Word} (h : rejection s w = none) :
    s.cmd.curOp = .none ∧ ∃ c, decode w = .ok c ∧ argOk s.cfg c = true := by
  have hidle : s.cmd.curOp = .none := by
    by_contra hbusy
    simp [rejection_of_busy hbusy] at h
  cases hdec : decode w with
  | error e => simp [rejection_of_decode_error hidle hdec] at h
  | ok c => exact ⟨hidle, c, rfl, by simpa [rejection_of_decode_ok hidle hdec] using h⟩

/-- A rejected write to CMD writes REJ and REJCODE alone (spec/60_exceptions.md R260, R262). -/
theorem issueCommand_of_rejection {s : State} {w : Word} {code : RejCode} (h : rejection s w = some code) :
    issueCommand w s = .next { s with cmd := s.cmd.rejected code } := by
  by_cases hidle : s.cmd.curOp = .none
  · cases hdec : decode w with
    | error e =>
      cases (rejection_of_decode_error hidle hdec).symm.trans h
      rw [issueCommand_of_decode_error hdec, (busy_eq_false s).2 hidle]
      rfl
    | ok c =>
      rw [rejection_of_decode_ok hidle hdec] at h
      split_ifs at h with hok
      cases h
      rw [issueCommand_of_decode_ok hdec, exec_of_not_argOk hidle (Bool.eq_false_of_not_eq_true hok)]
  · cases (rejection_of_busy hidle w).symm.trans h
    cases hdec : decode w with
    | error e =>
      rw [issueCommand_of_decode_error hdec, (busy_eq_true s).2 hidle]
      rfl
    | ok c => rw [issueCommand_of_decode_ok hdec, exec_of_busy c s hidle]

/-! ## The host's access by what it is -/

/-- What the host's access of a cycle makes of the state: it is no write to CMD and writes ARG at most, or it is a write
to CMD that is rejected, or one whose command is accepted. -/
inductive HostWrites (i : CycleIn) (s : State) : State → Prop where
  /-- No write to CMD; a write to ARG stores the word. -/
  | elsewhere (h : i.hReq ≠ 2 ∨ i.hAddr ≠ 0) : HostWrites i s
      { s with cmd := { s.cmd with arg := if i.hReq = 2 ∧ i.hAddr = 1 then i.hWdata else s.cmd.arg } }
  /-- A rejected write to CMD. -/
  | rejects (hreq : i.hReq = 2) (haddr : i.hAddr = 0) (code : RejCode) (h : rejection s i.hWdata = some code) :
      HostWrites i s { s with cmd := s.cmd.rejected code }
  /-- An accepted write to CMD. -/
  | accepts (m : State) (c : Instr) (h : Accepts i s c) (hrej : rejection s i.hWdata = none) (hacc : Accepted s c m) :
      HostWrites i s m

/-- An access that is no write to CMD writes ARG at most. -/
theorem hostAccess_elsewhere {i : CycleIn} (s : State) (h : i.hReq ≠ 2 ∨ i.hAddr ≠ 0) :
    hostAccess i s =
      .next { s with cmd := { s.cmd with arg := if i.hReq = 2 ∧ i.hAddr = 1 then i.hWdata else s.cmd.arg } } := by
  unfold hostAccess
  split_ifs with hreq harg harg
  · rw [harg.2, regWrite_arg]
  · have haddr : i.hAddr ≠ 0 := h.resolve_left (not_not_intro hreq)
    have hne : i.hAddr ≠ 1 := fun h1 => harg ⟨hreq, h1⟩
    exact regWrite_of_two_le _ s _ (by bv_omega)
  · exact absurd harg.1 hreq
  · rfl

/-- The access of a cycle that is no reset cycle, in a block with a pixel. -/
theorem hostAccess_hostWrites {i : CycleIn} {s m : State} (hrst : i.rst = false) (hpix : 1 ≤ s.cfg.nPix)
    (h : hostAccess i s = .next m) : HostWrites i s m := by
  by_cases hcmd : i.hReq = 2 ∧ i.hAddr = 0
  · obtain ⟨hreq, haddr⟩ := hcmd
    have hissue : issueCommand i.hWdata s = .next m := by
      rwa [hostAccess, if_pos hreq, haddr, regWrite_cmd] at h
    cases hrej : rejection s i.hWdata with
    | some code =>
      cases (issueCommand_of_rejection hrej).symm.trans hissue
      exact .rejects hreq haddr code hrej
    | none =>
      obtain ⟨hidle, c, hdec, hok⟩ := exists_of_rejection_eq_none hrej
      obtain ⟨t, ht, hacc⟩ := exec_accepts ((busy_eq_false s).2 hidle) hpix hok
      cases ((issueCommand_of_decode_ok hdec s).trans ht).symm.trans hissue
      exact .accepts _ c ⟨hrst, hreq, haddr, hidle, hdec, hok⟩ hrej hacc
  · have helse : i.hReq ≠ 2 ∨ i.hAddr ≠ 0 := not_and_or.1 hcmd
    cases (hostAccess_elsewhere s helse).symm.trans h
    exact .elsewhere helse

/-! ## Who writes which register -/

/-- CLEAR, PSET and PADD alone write the frame memory (R136). -/
theorem Accepted.fb_of_ne {s t : State} {c : Instr} (h : Accepted s c t) (hclear : c ≠ .clear)
    (hpset : ∀ n, c ≠ .pset n) (hpadd : ∀ n, c ≠ .padd n) : t.fmem.fb = s.fmem.fb := by
  cases h with
  | clear => exact absurd rfl hclear
  | pset n => exact absurd rfl (hpset n)
  | padd n => exact absurd rfl (hpadd n)
  | _ => rfl

/-- SETOFF alone writes OFFSET (spec/10_state.md R32). -/
theorem Accepted.offset_of_ne {s t : State} {c : Instr} (h : Accepted s c t) (hc : ∀ o, c ≠ .setoff o) :
    t.fmem.offset = s.fmem.offset := by
  cases h with
  | setoff o => exact absurd rfl (hc o)
  | _ => rfl

/-- PGET alone writes RESULT (spec/10_state.md R26). -/
theorem Accepted.result_of_ne {s t : State} {c : Instr} (h : Accepted s c t) (hc : ∀ p, c ≠ .pget p) :
    t.fmem.result = s.fmem.result := by
  cases h with
  | pget p => exact absurd rfl (hc p)
  | _ => rfl

/-- Acceptance clears REJ and REJCODE and leaves ARG (R121). -/
theorem Accepted.arg_rej {s t : State} {c : Instr} (h : Accepted s c t) :
    t.cmd.arg = s.cmd.arg ∧ t.cmd.rej = false ∧ t.cmd.rejCode = .none := by
  rw [h.cmd]
  split_ifs <;> exact ⟨rfl, rfl, rfl⟩

section HostWrites

variable {i : CycleIn} {s m : State} (h : HostWrites i s m)
include h

theorem HostWrites.fb (hc : ∀ c, Accepts i s c → c ≠ .clear ∧ (∀ n, c ≠ .pset n) ∧ ∀ n, c ≠ .padd n) :
    m.fmem.fb = s.fmem.fb := by
  cases h with
  | elsewhere | rejects => rfl
  | accepts _ c hacc _ ht =>
    obtain ⟨hclear, hpset, hpadd⟩ := hc c hacc
    exact ht.fb_of_ne hclear hpset hpadd

theorem HostWrites.offset (hc : ∀ o, ¬Accepts i s (.setoff o)) : m.fmem.offset = s.fmem.offset := by
  cases h with
  | elsewhere | rejects => rfl
  | accepts _ c hacc _ ht => exact ht.offset_of_ne fun o ho => hc o (ho ▸ hacc)

theorem HostWrites.result (hc : ∀ p, ¬Accepts i s (.pget p)) : m.fmem.result = s.fmem.result := by
  cases h with
  | elsewhere | rejects => rfl
  | accepts _ c hacc _ ht => exact ht.result_of_ne fun p hp => hc p (hp ▸ hacc)

/-- A write to CMD is no write to ARG. -/
theorem HostWrites.arg : m.cmd.arg = if i.hReq = 2 ∧ i.hAddr = 1 then i.hWdata else s.cmd.arg := by
  cases h with
  | elsewhere => rfl
  | rejects _ haddr => simp [haddr]
  | accepts _ c hacc _ ht =>
    obtain ⟨_, _, haddr, _⟩ := hacc
    simp [haddr, ht.arg_rej.1]

theorem HostWrites.rej_kept (hne : i.hReq ≠ 2 ∨ i.hAddr ≠ 0) :
    m.cmd.rej = s.cmd.rej ∧ m.cmd.rejCode = s.cmd.rejCode := by
  cases h with
  | elsewhere => exact ⟨rfl, rfl⟩
  | rejects hreq haddr => simp [hreq, haddr] at hne
  | accepts _ c hacc =>
    obtain ⟨_, hreq, haddr, _⟩ := hacc
    simp [hreq, haddr] at hne

theorem HostWrites.rej_of_rejection (hreq : i.hReq = 2) (haddr : i.hAddr = 0) {code : RejCode}
    (hcode : rejection s i.hWdata = some code) : m.cmd.rej = true ∧ m.cmd.rejCode = code := by
  cases h with
  | elsewhere hne => simp [hreq, haddr] at hne
  | rejects _ _ code' hcode' => exact ⟨rfl, Option.some.inj (hcode'.symm.trans hcode)⟩
  | accepts _ c _ hnone => cases hnone.symm.trans hcode

theorem HostWrites.rej_of_accepted (hreq : i.hReq = 2) (haddr : i.hAddr = 0) (hnone : rejection s i.hWdata = none) :
    m.cmd.rej = false ∧ m.cmd.rejCode = .none := by
  cases h with
  | elsewhere hne => simp [hreq, haddr] at hne
  | rejects _ _ code hcode => cases hcode.symm.trans hnone
  | accepts _ c _ _ ht => exact ht.arg_rej.2

end HostWrites

/-! ## A cycle -/

/-- The engines leave ARG, REJ and REJCODE to the host. -/
theorem engines_arg_rej (i : CycleIn) (s m : State) :
    (engines i s m).cmd.arg = m.cmd.arg ∧ (engines i s m).cmd.rej = m.cmd.rej ∧
      (engines i s m).cmd.rejCode = m.cmd.rejCode := by
  rcases engines_cmd i s m with he | he <;> rw [he] <;> exact ⟨rfl, rfl, rfl⟩

/-- A cycle that is no reset cycle leaves FMEM, ARG, REJ and REJCODE as the host's access makes them. -/
theorem step_hostWrites {s t : State} (hs : s.Inv) (hrst : (currentInput s).rst = false) (h : step s = .next t) :
    ∃ m, HostWrites (currentInput s) s m ∧ t.fmem = m.fmem ∧ t.cmd.arg = m.cmd.arg ∧ t.cmd.rej = m.cmd.rej ∧
      t.cmd.rejCode = m.cmd.rejCode := by
  obtain ⟨hpix, _⟩ := params_positive hs.cfgOk
  rcases step_cases s t h with ⟨hrst', _⟩ | ⟨_, m, level, hm, _, rfl⟩
  · simp [hrst] at hrst'
  · exact ⟨m, hostAccess_hostWrites hrst hpix hm, engines_fmem _ s m, engines_arg_rej _ s m⟩

/-! ## The obligations -/

/-- Settles O11: clearing reads 0 below the frame's size and nothing else of the memory changes. -/
theorem clearResult : Obligations.ClearResult := by
  unfold Obligations.ClearResult
  refine ⟨decodesAs_commandOfOpcode (op := 2) (by decide), fun s hwf =>
    ⟨exec_of_busy .clear s, fun hidle => ?_⟩⟩
  refine ⟨s.fmem.fb.clearBelow (fbSize s), issue_ok s _ ((busy_eq_false s).2 hidle), fun a ha => ?_, fun a ha => ?_⟩
  · exact (Memory.read_clearBelow _ _ a hwf).trans (if_pos ha)
  · exact (Memory.read_clearBelow _ _ a hwf).trans (if_neg (Nat.not_lt.2 ha))

/-- Settles O12: PSET writes one slot, whose bytes read the lanes of the operand. -/
theorem psetResult : Obligations.PsetResult := by
  unfold Obligations.PsetResult
  refine ⟨decodesAs_commandOfOpcode (op := 3) (by decide), fun i s hwf hpix =>
    ⟨exec_of_busy (.pset i) s, fun hidle => ?_⟩⟩
  exact ⟨_, exec_pset_of_idle hidle hpix i, rfl, phys_lt s i hpix, Memory.read_writeSlot_green hwf _ _,
    Memory.read_writeSlot_red hwf _ _, Memory.read_writeSlot_blue hwf _ _,
    fun _ hg hr hb => Memory.read_writeSlot_of_ne hwf _ _ hg hr hb⟩

/-- Settles O13: PADD writes one slot, whose bytes read the saturating sums of what it held and the operand. -/
theorem paddResult : Obligations.PaddResult := by
  unfold Obligations.PaddResult
  refine ⟨decodesAs_commandOfOpcode (op := 4) (by decide), fun i s hwf hpix =>
    ⟨exec_of_busy (.padd i) s, fun hidle => ?_⟩⟩
  refine ⟨_, exec_padd_of_idle hidle hpix i, rfl, phys_lt s i hpix, ?green, ?red, ?blue,
    fun _ hg hr hb => Memory.read_writeSlot_of_ne hwf _ _ hg hr hb⟩
  case green => exact (congrArg _ (Memory.read_writeSlot_green hwf _ _)).trans (satAdd8_toNat _ _)
  case red => exact (congrArg _ (Memory.read_writeSlot_red hwf _ _)).trans (satAdd8_toNat _ _)
  case blue => exact (congrArg _ (Memory.read_writeSlot_blue hwf _ _)).trans (satAdd8_toNat _ _)

/-- Settles O17: the engines write none of these registers, and of the host's accesses one kind alone writes each. -/
theorem onlyClearPsetPaddWriteFrame : Obligations.OnlyClearPsetPaddWriteFrame := by
  unfold Obligations.OnlyClearPsetPaddWriteFrame
  refine ⟨?_, fun s t hrst hstep => ?_⟩
  · rintro _ s t hs rfl hrst hstep
    obtain ⟨m, hw, hfmem, harg, hrej, hcode⟩ := step_hostWrites hs hrst hstep
    rw [hfmem, harg, hrej, hcode]
    exact ⟨fun hc a => by rw [hw.fb hc], hw.offset, hw.result, hw.arg, hw.rej_kept,
      fun hreq haddr => ⟨fun _ => hw.rej_of_rejection hreq haddr, hw.rej_of_accepted hreq haddr⟩⟩
  · cases (step_of_rst s hrst).symm.trans hstep
    exact ⟨rfl, rfl⟩

/-- Settles O10: the sum is SatAdd8's on numbers, and a color's lanes are fields of their own. -/
theorem channelAdditionSaturates : Obligations.ChannelAdditionSaturates := by
  unfold Obligations.ChannelAdditionSaturates
  exact ⟨satAdd8_toNat, fun _ _ => ⟨rfl, rfl, rfl⟩⟩

/-- Settles O14: PGET reads one slot, whose color word is its lanes side by side, or fails its operand check. -/
theorem pgetResult : Obligations.PgetResult := by
  unfold Obligations.PgetResult
  refine ⟨decodesAs_commandOfOpcode (op := 5) (by decide), fun p s =>
    ⟨exec_of_busy (.pget p) s, ?_, fun hidle hp => ?_⟩⟩
  · exact fun hidle hp => exec_of_not_argOk hidle (decide_eq_false (Nat.not_lt.2 hp))
  · rw [exec_pget_of_idle hidle hp, colorWord_eq_append]
    rfl

/-- Settles O15: SETOFF stores an operand that fits OFFSET, or fails its operand check. -/
theorem setoffResult : Obligations.SetoffResult := by
  unfold Obligations.SetoffResult
  refine ⟨decodesAs_commandOfOpcode (op := 6) (by decide), fun o s hfits =>
    ⟨exec_of_busy (.setoff o) s, fun hidle ho => ?_, fun hidle ho => ?_⟩⟩
  · exact exec_of_not_argOk hidle (decide_eq_false (Nat.not_lt.2 ho))
  · have hvalue : (BitVec.ofNat 16 o).toNat = o := (BitVec.toNat_ofNat o 16).trans (Nat.mod_eq_of_lt hfits)
    exact ⟨BitVec.ofNat 16 o, hvalue, exec_setoff_of_idle hidle ho⟩

end Machine

end Sys2Proof
end

section
/-! PROOFS. The LED transmitter (spec/42_transmit.md): one cycle of LTX, and a whole TX as a walk of LTX's position from the
acceptance to the end of the latch gap. -/

namespace Sys2Proof.Machine

/-! ## A cycle that is no reset cycle -/

/-- The host's access never stops the block: a write to CMD is rejected, or its command is accepted. -/
theorem hostAccess_answers (i : CycleIn) (s : State) (hpix : 1 ≤ s.cfg.nPix) : ∃ m, hostAccess i s = .next m := by
  by_cases hcmd : i.hReq = 2 ∧ i.hAddr = 0
  · obtain ⟨hreq, haddr⟩ := hcmd
    rw [hostAccess, if_pos hreq, haddr, regWrite_cmd]
    cases hrej : rejection s i.hWdata with
    | some code => exact ⟨_, issueCommand_of_rejection hrej⟩
    | none =>
      obtain ⟨hidle, c, hdec, hok⟩ := exists_of_rejection_eq_none hrej
      obtain ⟨m, hm, _⟩ := exec_accepts ((busy_eq_false s).2 hidle) hpix hok
      exact ⟨m, (issueCommand_of_decode_ok hdec s).trans hm⟩
  · exact ⟨_, hostAccess_elsewhere s (not_and_or.1 hcmd)⟩

/-- A state of the invariant has a next one: `txBit` stays in the frame, so `led_o` can be computed (spec/20_memory.md
R64). -/
theorem step_answers {s : State} (hs : s.Inv) : ∃ t, step s = .next t := by
  cases hrst : (currentInput s).rst with
  | true => exact ⟨_, step_of_rst s hrst⟩
  | false =>
    obtain ⟨hpix, _⟩ := params_positive hs.cfgOk
    obtain ⟨m, hm⟩ := hostAccess_answers (currentInput s) s hpix
    obtain ⟨_, hbit, _⟩ := engines_ltxUnitOk _ s m hm hs
    have hled := ledLevel_eq_pattern (engines (currentInput s) s m)
      (by rwa [engines_cfg, hostAccess_cfg _ s m hm])
    have hdrive : driveLed (engines (currentInput s) s m) = .next _ := bindNext_of_eq_next hled _
    have hedge : clockEdge (currentInput s) s m = .next _ := bindNext_of_eq_next hdrive _
    exact ⟨_, (if_neg (by simp [hrst])).trans ((bindNext_of_eq_next hm _).trans hedge)⟩

/-- Every cycle uses up one entry of the queue of inputs. -/
theorem step_inputs {s t : State} (h : step s = .next t) : t.inputs = s.inputs.tail := by
  rcases step_cases s t h with ⟨_, rfl⟩ | ⟨_, m, level, _, _, rfl⟩ <;> rfl

/-- No cycle changes the parameters (spec/10_state.md R43). -/
theorem step_cfg {s t : State} (h : step s = .next t) : t.cfg = s.cfg := by
  rcases step_cases s t h with ⟨_, rfl⟩ | ⟨_, m, level, hm, _, rfl⟩
  · rfl
  · exact (engines_cfg _ s m).trans (hostAccess_cfg _ s m hm)

/-- Where no command but TX is accepted FMEM is unchanged (spec/41_framebuffer.md R136). -/
theorem HostWrites.fmem {i : CycleIn} {s m : State} (h : HostWrites i s m) (hc : ∀ c, Accepts i s c → c = .tx) :
    m.fmem = s.fmem := by
  cases h with
  | elsewhere | rejects => rfl
  | accepts _ c hacc _ ht =>
    cases hc c hacc
    cases ht
    rfl

/-- Only one command can be accepted in a cycle. -/
theorem Accepts.unique {i : CycleIn} {s : State} {c d : Instr} (hc : Accepts i s c) (hd : Accepts i s d) : c = d := by
  obtain ⟨_, _, _, _, hdec, _⟩ := hc
  obtain ⟨_, _, _, _, hdec', _⟩ := hd
  exact Except.ok.inj (hdec.symm.trans hdec')

/-- The host's access starts a frame where it is an accepted TX, and leaves LTX alone otherwise (R150). -/
theorem HostWrites.ltx {i : CycleIn} {s m : State} (h : HostWrites i s m) :
    m.ltx = if Accepts i s .tx then startFrame s else s.ltx := by
  split_ifs with htx
  · cases h with
    | elsewhere hne =>
      obtain ⟨_, hreq, haddr, _⟩ := htx
      simp [hreq, haddr] at hne
    | rejects _ _ code hcode =>
      obtain ⟨_, _, _, hidle, hdec, hok⟩ := htx
      simp [rejection_of_decode_ok hidle hdec, hok] at hcode
    | accepts _ c hacc _ ht =>
      cases hacc.unique htx
      cases ht
      rfl
  · cases h with
    | elsewhere | rejects => rfl
    | accepts _ c hacc _ ht =>
      cases ht with
      | tx => exact absurd hacc htx
      | _ => rfl

/-! ## LTX's next state, phase by phase (R156, R158) -/

@[simp] theorem ltxNext_lowRun (s : State) (u : LtxUnit) : (ltxNext s u).lowRun = lowRunNext s := by
  unfold ltxNext
  split
  · rfl
  · split <;> rfl
  · split
    · rfl
    · split <;> rfl
  · split <;> rfl

section Phases

variable {s : State} (u : LtxUnit)

theorem ltxNext_idle (h : s.ltx.txPhase = .idle) : ltxNext s u = { u with lowRun := lowRunNext s } := by
  simp [ltxNext, h]

theorem ltxNext_wait (h : s.ltx.txPhase = .wait) :
    ltxNext s u =
      if s.cfg.latchCyc ≤ lowRunNext s then { u with lowRun := lowRunNext s, txPhase := .bits, txBit := 0, txCyc := 0 }
      else { u with lowRun := lowRunNext s } := by
  simp [ltxNext, h]

theorem ltxNext_bits (h : s.ltx.txPhase = .bits) :
    ltxNext s u =
      if s.ltx.txCyc < s.cfg.tbitCyc - 1 then { u with lowRun := lowRunNext s, txCyc := s.ltx.txCyc + 1 }
      else if s.ltx.txBit < 24 * s.cfg.nPix - 1 then
        { u with lowRun := lowRunNext s, txBit := s.ltx.txBit + 1, txCyc := 0 }
      else { u with lowRun := lowRunNext s, txPhase := .latch, txCyc := 0 } := by
  simp only [ltxNext, h, Nat.lt_sub_iff_add_lt]
  rfl

theorem ltxNext_latch (h : s.ltx.txPhase = .latch) :
    ltxNext s u =
      if s.ltx.txCyc < s.cfg.latchCyc - 1 then { u with lowRun := lowRunNext s, txCyc := s.ltx.txCyc + 1 }
      else { u with lowRun := lowRunNext s, txPhase := .idle, txCyc := 0 } := by
  simp only [ltxNext, h, Nat.lt_sub_iff_add_lt]

end Phases

/-- The last cycle of a TX is the last of its latch gap (R154, R157). -/
theorem txLastCycle_iff (s : State) :
    txLastCycle s = true ↔ s.ltx.txPhase = .latch ∧ s.cfg.latchCyc ≤ s.ltx.txCyc + 1 := by
  simp [txLastCycle]

/-- `lowRun` at the end of a cycle, in the words of R156. -/
theorem lowRunNext_eq (s : State) :
    lowRunNext s = if s.ltx.ledO = false then min s.cfg.latchCyc (s.ltx.lowRun + 1) else 0 := by
  cases h : s.ltx.ledO <;> simp [lowRunNext, h]

/-! ## What the invariant says of LTX, phase by phase (spec/10_state.md R35) -/

section Invariant

variable {s : State} (h : LtxOk s)
include h

theorem LtxOk.wait (hx : s.ltx.txPhase = .wait) :
    s.ltx.txBit = 0 ∧ s.ltx.txCyc = 0 ∧ s.ltx.lowRun < s.cfg.latchCyc := by
  obtain ⟨_, _, _, _, hwait, _⟩ := h
  exact hwait hx

theorem LtxOk.bits (hx : s.ltx.txPhase = .bits) : s.ltx.txBit < frameBits s.cfg ∧ s.ltx.txCyc < s.cfg.tbitCyc := by
  obtain ⟨_, hbit, _, _, _, hbits, _⟩ := h
  exact ⟨hbit, hbits hx⟩

theorem LtxOk.latch (hx : s.ltx.txPhase = .latch) :
    s.ltx.txCyc < s.cfg.latchCyc ∧ s.ltx.txCyc ≤ s.ltx.lowRun := by
  obtain ⟨_, _, _, _, _, _, hlatch, _⟩ := h
  exact hlatch hx

theorem LtxOk.ledO : s.ltx.ledO = ledPattern s := by
  obtain ⟨_, _, _, _, _, _, _, hled⟩ := h
  exact hled

/-- The line is low outside the BIT phase (R155). -/
theorem LtxOk.ledO_of_not_bits (hx : s.ltx.txPhase ≠ .bits) : s.ltx.ledO = false := by
  simp [h.ledO, ledPattern, hx]

/-- LTX is at work exactly while a TX is executing (R150). -/
theorem LtxOk.curOp_eq_tx_iff : s.cmd.curOp = .tx ↔ s.ltx.txPhase ≠ .idle := by
  obtain ⟨hidle, _⟩ := h
  rw [ne_eq, hidle, ne_eq, not_not]

end Invariant

/-- The level of the waveform rules as one condition (R152, R158). -/
theorem ledPattern_eq_decide (s : State) :
    ledPattern s =
      decide (s.ltx.txPhase = .bits ∧ s.ltx.txCyc < highTime s.cfg (frameBitOf s.fmem.fb s.ltx.txBit)) :=
  (Bool.decide_and _ _).symm

/-! ## LTX in one step -/

/-- LTX after a cycle that is no reset cycle: its next state, with `led_o` the level of the waveform. -/
theorem step_ltx {s t : State} (hs : s.Inv) (hrst : (currentInput s).rst = false) (h : step s = .next t) :
    t.ltx = { ltxNext s (if Accepts (currentInput s) s .tx then startFrame s else s.ltx) with ledO := ledPattern t } := by
  have hled := (step_inv s t hs h).ltxOk.ledO
  obtain ⟨hpix, _⟩ := params_positive hs.cfgOk
  rcases step_cases s t h with ⟨hrst', _⟩ | ⟨_, m, level, hm, _, ht⟩
  · simp [hrst] at hrst'
  · rw [← (hostAccess_hostWrites hrst hpix hm).ltx, ← hled, ht]
    simp

/-- The engines complete a TX in its last cycle and let it run on before (R123, R157). -/
theorem engines_cmd_of_tx (i : CycleIn) (s m : State) (hr : RtcmOk s) (hop : s.cmd.curOp = .tx) :
    (engines i s m).cmd = if txLastCycle s then m.cmd.finished else m.cmd := by
  rw [engines_of_not_rtc i s m hr (isRtcOp_false_of_tx hop), msyncCycle_cmd, ltxCycle_cmd]

section Sending

variable {s t : State} (hs : s.Inv) (hop : s.cmd.curOp = .tx) (hrst : (currentInput s).rst = false)
  (h : step s = .next t)
include hs hop hrst h

/-- No access disturbs LTX while it sends (R160). -/
theorem step_ltx_of_tx : t.ltx = { ltxNext s s.ltx with ledO := ledPattern t } := by
  have hno : ¬Accepts (currentInput s) s .tx := by
    rintro ⟨_, _, _, hidle, _⟩
    simp [hop] at hidle
  rw [step_ltx hs hrst h, if_neg hno]

/-- The cycle of a TX in which it completes is its last, whatever is written to CMD (R123, R157). -/
theorem step_cmd_of_tx :
    t.cmd.curOp = (if txLastCycle s then .none else .tx) ∧ (txLastCycle s = true → t.cmd.done = true) := by
  rcases step_cases s t h with ⟨hrst', _⟩ | ⟨_, m, level, hm, _, rfl⟩
  · simp [hrst] at hrst'
  · rcases hostAccess_units _ s m hm with ⟨c, rfl, hc⟩ | ⟨hnone, _⟩
    · rw [closeCycle_cmd, engines_cmd_of_tx _ s _ hs.rtcmOk hop]
      split_ifs with hlast
      · exact ⟨rfl, fun _ => rfl⟩
      · exact ⟨hc.trans hop, fun hl => absurd hl hlast⟩
    · simp [hop] at hnone

end Sending

/-- No host access reaches FMEM in a cycle that starts with a TX running or that accepts one (R136). -/
theorem step_fmem {s t : State} (hs : s.Inv) (hrst : (currentInput s).rst = false) (h : step s = .next t)
    (hc : s.cmd.curOp = .tx ∨ Accepts (currentInput s) s .tx) : t.fmem = s.fmem := by
  obtain ⟨m, hw, hfmem, _⟩ := step_hostWrites hs hrst h
  refine hfmem.trans (hw.fmem fun c hacc => ?_)
  rcases hc with hop | htx
  · obtain ⟨_, _, _, hidle, _⟩ := hacc
    simp [hop] at hidle
  · exact hacc.unique htx

/-- Settles O20: LTX's next state phase by phase; a running LTX is out of the host's reach, and `led_o` of both cycles is
the invariant's. -/
theorem ltxFollowsItsTable : Obligations.LtxFollowsItsTable := by
  unfold Obligations.LtxFollowsItsTable
  rintro _ s t hs rfl hrst h
  have hl := hs.ltxOk
  have hltx := step_ltx hs hrst h
  refine ⟨?led, ?ledNext, lowRunNext s, lowRunNext_eq s, ?lowRun, ?table⟩
  case led => rw [hl.ledO, ledPattern_eq_decide]
  case ledNext => rw [(step_inv s t hs h).ltxOk.ledO, ledPattern_eq_decide, step_cfg h]
  case lowRun => rw [hltx, ltxNext_lowRun]
  case table =>
    cases hx : s.ltx.txPhase with
    | idle =>
      rw [ltxNext_idle _ hx] at hltx
      by_cases htx : Accepts (currentInput s) s .tx
      · rw [if_pos htx] at hltx
        dsimp only
        rw [if_pos htx, hltx]
        exact ⟨rfl, rfl, rfl⟩
      · rw [if_neg htx] at hltx
        dsimp only
        rw [if_neg htx, hltx]
        exact ⟨hx, rfl, rfl⟩
    | wait =>
      have hop : s.cmd.curOp = .tx := hl.curOp_eq_tx_iff.2 (by simp [hx])
      obtain ⟨hb, hc, _⟩ := hl.wait hx
      rw [step_ltx_of_tx hs hop hrst h, ltxNext_wait _ hx]
      dsimp only
      split_ifs
      · exact ⟨rfl, rfl, rfl⟩
      · exact ⟨hb, hc, hx⟩
    | bits =>
      have hop : s.cmd.curOp = .tx := hl.curOp_eq_tx_iff.2 (by simp [hx])
      rw [step_ltx_of_tx hs hop hrst h, ltxNext_bits _ hx]
      dsimp only
      split_ifs
      · exact ⟨hx, rfl, rfl⟩
      · exact ⟨hx, rfl, rfl⟩
      · exact ⟨rfl, rfl, rfl⟩
    | latch =>
      have hop : s.cmd.curOp = .tx := hl.curOp_eq_tx_iff.2 (by simp [hx])
      obtain ⟨hcur, hdone⟩ := step_cmd_of_tx hs hop hrst h
      rw [step_ltx_of_tx hs hop hrst h, ltxNext_latch _ hx]
      dsimp only
      split_ifs with hc
      · exact ⟨hx, rfl, rfl⟩
      · have hlast : txLastCycle s = true := (txLastCycle_iff s).2 ⟨hx, by omega⟩
        exact ⟨rfl, rfl, rfl, by rw [hcur, if_pos hlast], hdone hlast⟩

/-! ## A TX as a walk of LTX's position -/

/-- The cycles of a frame are 24·N_PIX bits of TBIT_CYC cycles, with no gap (R160). -/
theorem bitCycle_lt {T n j c : Nat} (hj : j < n) (hc : c < T) : j * T + c < n * T :=
  calc j * T + c < j * T + T := Nat.add_lt_add_left hc _
    _ = (j + 1) * T := (Nat.succ_mul j T).symm
    _ ≤ n * T := Nat.mul_le_mul_right T hj

/-- A cycle of a frame is a cycle of one bit. -/
theorem bitCycle_unique {T j c j' c' : Nat} (hc : c < T) (hc' : c' < T) (h : j * T + c = j' * T + c') :
    j = j' ∧ c = c' := by
  have hpos : 0 < T := Nat.zero_lt_of_lt hc
  have divMod {j c : Nat} (hc : c < T) : (j * T + c) / T = j ∧ (j * T + c) % T = c :=
    (Nat.div_mod_unique hpos).2 ⟨by rw [Nat.mul_comm, Nat.add_comm], hc⟩
  obtain ⟨hj, hcyc⟩ := divMod (j := j) hc
  obtain ⟨hj', hcyc'⟩ := divMod (j := j') hc'
  rw [h] at hj hcyc
  exact ⟨hj.symm.trans hj', hcyc.symm.trans hcyc'⟩

/-- How far LTX is in a TX, in cycles from a line that has just gone low: the low cycles before the frame up to LATCH_CYC,
then the bits, then the latch gap. -/
def txPosition (p : Params) (u : LtxUnit) : Nat :=
  match u.txPhase with
  | .idle => 0
  | .wait => u.lowRun
  | .bits => p.latchCyc + (u.txBit * p.tbitCyc + u.txCyc)
  | .latch => p.latchCyc + (frameBits p * p.tbitCyc + u.txCyc)

/-- The position at which the latch gap is over (R154, R157). -/
def txEnd (p : Params) : Nat := p.latchCyc + (frameBits p * p.tbitCyc + p.latchCyc)

/-- `led_o` has no part in the position. -/
@[simp] theorem txPosition_ledO (p : Params) (u : LtxUnit) (level : Bool) :
    txPosition p { u with ledO := level } = txPosition p u := rfl

section Position

variable {s : State}

theorem txPosition_wait (h : s.ltx.txPhase = .wait) : txPosition s.cfg s.ltx = s.ltx.lowRun := by
  simp [txPosition, h]

theorem txPosition_bits (h : s.ltx.txPhase = .bits) :
    txPosition s.cfg s.ltx = s.cfg.latchCyc + (s.ltx.txBit * s.cfg.tbitCyc + s.ltx.txCyc) := by
  simp [txPosition, h]

theorem txPosition_latch (h : s.ltx.txPhase = .latch) :
    txPosition s.cfg s.ltx = s.cfg.latchCyc + (frameBits s.cfg * s.cfg.tbitCyc + s.ltx.txCyc) := by
  simp [txPosition, h]

variable (hl : LtxOk s)
include hl

/-- The line is low before the frame and after it (R153 to R155). -/
theorem ledO_of_txPosition
    (h : txPosition s.cfg s.ltx < s.cfg.latchCyc ∨
      s.cfg.latchCyc + frameBits s.cfg * s.cfg.tbitCyc ≤ txPosition s.cfg s.ltx) : s.ltx.ledO = false := by
  refine hl.ledO_of_not_bits fun hx => ?_
  obtain ⟨hbit, hcyc⟩ := hl.bits hx
  have hlt := bitCycle_lt hbit hcyc
  rw [txPosition_bits hx] at h
  omega

variable (hop : s.cmd.curOp = .tx)
include hop

/-- The last cycle of a TX is the one whose next position is the end. -/
theorem txLastCycle_iff_txPosition (hp : s.cfg.Ok) :
    txLastCycle s = true ↔ txPosition s.cfg s.ltx + 1 = txEnd s.cfg := by
  obtain ⟨_, _, hgap, _⟩ := params_positive hp
  rw [txLastCycle_iff]
  unfold txEnd
  cases hx : s.ltx.txPhase with
  | idle => exact absurd hx (hl.curOp_eq_tx_iff.1 hop)
  | wait =>
    obtain ⟨_, _, hlow⟩ := hl.wait hx
    rw [txPosition_wait hx]
    exact iff_of_false (by simp) (by omega)
  | bits =>
    obtain ⟨hbit, hcyc⟩ := hl.bits hx
    have hlt := bitCycle_lt hbit hcyc
    rw [txPosition_bits hx]
    exact iff_of_false (by simp) (by omega)
  | latch =>
    obtain ⟨hcyc, _⟩ := hl.latch hx
    rw [txPosition_latch hx]
    exact ⟨fun ⟨_, hge⟩ => by omega, fun hend => ⟨rfl, by omega⟩⟩

/-- A cycle of a TX but its last moves the position on by one. -/
theorem txPosition_ltxNext (hlast : txLastCycle s = false) :
    txPosition s.cfg (ltxNext s s.ltx) = txPosition s.cfg s.ltx + 1 := by
  cases hx : s.ltx.txPhase with
  | idle => exact absurd hx (hl.curOp_eq_tx_iff.1 hop)
  | wait =>
    obtain ⟨_, _, hlow⟩ := hl.wait hx
    have hnext : lowRunNext s = s.ltx.lowRun + 1 := by
      rw [lowRunNext_eq, if_pos (hl.ledO_of_not_bits (by simp [hx]))]
      omega
    rw [ltxNext_wait _ hx, txPosition_wait hx]
    split_ifs
    · simp only [txPosition]
      omega
    · simp [txPosition, hx, hnext]
  | bits =>
    obtain ⟨hbit, hcyc⟩ := hl.bits hx
    rw [ltxNext_bits _ hx, txPosition_bits hx]
    split_ifs
    · simp only [txPosition, hx]
      omega
    · simp only [txPosition, hx, Nat.succ_mul]
      omega
    · have hlastBit : frameBits s.cfg = s.ltx.txBit + 1 := by
        unfold frameBits at hbit ⊢
        omega
      simp only [txPosition, hlastBit, Nat.succ_mul]
      omega
  | latch =>
    have hlt : s.ltx.txCyc < s.cfg.latchCyc - 1 := by
      by_contra hge
      simp [(txLastCycle_iff s).2 ⟨hx, by omega⟩] at hlast
    rw [ltxNext_latch _ hx, if_pos hlt, txPosition_latch hx]
    simp only [txPosition, hx]
    omega

/-- A position within the frame is a cycle of a bit, and `led_o` there is the bit's pulse (R152). -/
theorem ledO_of_txPosition_bits {j c : Nat} (hj : j < frameBits s.cfg) (hc : c < s.cfg.tbitCyc)
    (h : txPosition s.cfg s.ltx = s.cfg.latchCyc + (j * s.cfg.tbitCyc + c)) :
    s.ltx.ledO = decide (c < highTime s.cfg (frameBitOf s.fmem.fb j)) := by
  have hlt := bitCycle_lt hj hc
  cases hx : s.ltx.txPhase with
  | idle => exact absurd hx (hl.curOp_eq_tx_iff.1 hop)
  | wait =>
    obtain ⟨_, _, hlow⟩ := hl.wait hx
    rw [txPosition_wait hx] at h
    omega
  | bits =>
    obtain ⟨_, hcyc⟩ := hl.bits hx
    rw [txPosition_bits hx] at h
    obtain ⟨hj', hc'⟩ := bitCycle_unique hcyc hc (Nat.add_left_cancel h)
    rw [hl.ledO, ledPattern_eq_decide, hj', hc']
    simp [hx]
  | latch =>
    rw [txPosition_latch hx] at h
    omega

end Position

/-! ## A whole TX -/

/-- A run begins with one cycle. -/
theorem runsTo_succ_iff {n : Nat} {s u : State} : RunsTo (n + 1) s u ↔ ∃ t, step s = .next t ∧ RunsTo n t u := by
  simp only [RunsTo, Host.Core.run, core]
  cases step s <;> simp

/-- One more cycle at the end of a run. -/
theorem RunsTo.succ {n : Nat} {s t u : State} (h : RunsTo n s t) (hu : step t = .next u) : RunsTo (n + 1) s u := by
  induction n generalizing s with
  | zero =>
    cases h
    exact runsTo_succ_iff.2 ⟨u, hu, rfl⟩
  | succ n ih =>
    obtain ⟨r, hr, hrun⟩ := runsTo_succ_iff.1 h
    exact runsTo_succ_iff.2 ⟨r, hr, ih hrun⟩

/-- The state in cycle `n` of a TX accepted in the cycle of `s`, counted from 0 in the cycle after the acceptance. -/
structure InTx (s : State) (n : Nat) (t : State) : Prop where
  inv : t.Inv
  curOp : t.cmd.curOp = .tx
  cfg : t.cfg = s.cfg
  fmem : t.fmem = s.fmem
  /-- The inputs of the acceptance and of the `n` cycles after it are used up. -/
  inputs : t.inputs = s.inputs.tail.drop n
  /-- LTX has started at the position the line had reached and moved on by one in each cycle (R153, R160). -/
  position : txPosition t.cfg t.ltx = lowRunNext s + n

/-- An input of the next `n` cycles is no reset. -/
theorem NoResetFor.currentInput_rst {k n : Nat} {l : List CycleIn} {t : State} (h : NoResetFor k l) (hn : n < k)
    (ht : t.inputs = l.drop n) : (currentInput t).rst = false := by
  obtain ⟨hlen, hno⟩ := h
  have hlt : n < l.length := Nat.lt_of_lt_of_le hn hlen
  rw [currentInput, ht, List.drop_eq_getElem_cons hlt]
  exact hno _ (List.mem_take_iff_getElem.2 ⟨n, by omega, rfl⟩)

/-- The WAIT cycles take the line from where it is at the acceptance to LATCH_CYC low cycles (R153). -/
theorem lowRunNext_add_txWaitCycles (s : State) : lowRunNext s + txWaitCycles s = s.cfg.latchCyc :=
  Nat.add_sub_cancel' (lowRunNext_le s)

/-- The whole TX takes LTX from there to the end (R159). -/
theorem lowRunNext_add_txBusyCycles (s : State) : lowRunNext s + txBusyCycles s = txEnd s.cfg := by
  have h := lowRunNext_add_txWaitCycles s
  unfold txBusyCycles txEnd
  omega

/-- The cycle of the acceptance leads into the first cycle of the TX (R150, R153). -/
theorem inTx_zero {s t : State} (hs : s.Inv) (hacc : Accepts (currentInput s) s .tx) (h : step s = .next t) :
    InTx s 0 t := by
  have hinv := step_inv s t hs h
  have hle := lowRunNext_le s
  have ⟨hrst, _, _, hidle, _⟩ := hacc
  have hx : s.ltx.txPhase = .idle := by
    by_contra hne
    simp [hs.ltxOk.curOp_eq_tx_iff.2 hne] at hidle
  have hltx := step_ltx hs hrst h
  rw [if_pos hacc, ltxNext_idle _ hx] at hltx
  exact {
    inv := hinv
    curOp := hinv.ltxOk.curOp_eq_tx_iff.2 (by
      rw [hltx]
      simp only [startFrame]
      split_ifs <;> simp)
    cfg := step_cfg h
    fmem := step_fmem hs hrst h (.inr hacc)
    inputs := step_inputs h
    position := by
      rw [step_cfg h, hltx]
      by_cases hge : s.cfg.latchCyc ≤ lowRunNext s
      · simp only [txPosition, startFrame, if_pos hge]
        omega
      · simp only [txPosition, startFrame, if_neg hge]
        omega }

/-- The last cycle of a TX is the one after which it has run for the whole of its duration. -/
theorem InTx.txLastCycle_iff {s t : State} {n : Nat} (ht : InTx s n t) :
    txLastCycle t = true ↔ n + 1 = txBusyCycles s := by
  have hend := lowRunNext_add_txBusyCycles s
  rw [txLastCycle_iff_txPosition ht.inv.ltxOk ht.curOp ht.inv.cfgOk, ht.position, ht.cfg]
  omega

/-- A cycle of a TX but its last leads into the next one. -/
theorem InTx.succ {s t u : State} {n : Nat} (ht : InTx s n t) (hn : n + 1 ≠ txBusyCycles s)
    (hrst : (currentInput t).rst = false) (h : step t = .next u) : InTx s (n + 1) u := by
  have hlast : txLastCycle t = false := Bool.eq_false_iff.2 fun hl => hn (ht.txLastCycle_iff.1 hl)
  obtain ⟨hcur, _⟩ := step_cmd_of_tx ht.inv ht.curOp hrst h
  exact {
    inv := step_inv t u ht.inv h
    curOp := by simpa [hlast] using hcur
    cfg := (step_cfg h).trans ht.cfg
    fmem := (step_fmem ht.inv hrst h (.inl ht.curOp)).trans ht.fmem
    inputs := by rw [step_inputs h, ht.inputs, List.tail_drop]
    position := by
      rw [step_cfg h, step_ltx_of_tx ht.inv ht.curOp hrst h, txPosition_ledO,
        txPosition_ltxNext ht.inv.ltxOk ht.curOp hlast, ht.position, Nat.add_assoc] }

/-- The last cycle of a TX leaves the block idle, with the whole latch gap behind it (R154, R157). -/
theorem InTx.completes {s t u : State} {n : Nat} (ht : InTx s n t) (hn : n + 1 = txBusyCycles s)
    (hrst : (currentInput t).rst = false) (h : step t = .next u) :
    u.cmd.curOp = .none ∧ u.cmd.done = true ∧ u.ltx.lowRun = s.cfg.latchCyc ∧ u.fmem = s.fmem := by
  have hlast := ht.txLastCycle_iff.2 hn
  obtain ⟨hx, hgap⟩ := (Machine.txLastCycle_iff t).1 hlast
  obtain ⟨hcur, hdone⟩ := step_cmd_of_tx ht.inv ht.curOp hrst h
  have hlow : lowRunNext t = s.cfg.latchCyc := by
    obtain ⟨_, hle⟩ := ht.inv.ltxOk.latch hx
    rw [lowRunNext_eq, if_pos (ht.inv.ltxOk.ledO_of_not_bits (by simp [hx])), ← ht.cfg]
    omega
  refine ⟨by rw [hcur, if_pos hlast], hdone hlast, ?_, (step_fmem ht.inv hrst h (.inl ht.curOp)).trans ht.fmem⟩
  rw [step_ltx_of_tx ht.inv ht.curOp hrst h, ltxNext_lowRun, hlow]

section WholeTx

variable {s : State} (hs : s.Inv) (hacc : Accepts (currentInput s) s .tx)
  (hno : NoResetFor (txBusyCycles s) s.inputs.tail)
include hs hacc hno

/-- An accepted TX runs through all its cycles, whatever the other inputs are (R159, R160). -/
theorem runsTo_inTx {n : Nat} (hn : n < txBusyCycles s) : ∃ t, RunsTo (1 + n) s t ∧ InTx s n t := by
  induction n with
  | zero =>
    obtain ⟨t, ht⟩ := step_answers hs
    exact ⟨t, RunsTo.succ rfl ht, inTx_zero hs hacc ht⟩
  | succ n ih =>
    obtain ⟨t, hrun, ht⟩ := ih (by omega)
    obtain ⟨u, hu⟩ := step_answers ht.inv
    exact ⟨u, hrun.succ hu, ht.succ (by omega) (hno.currentInput_rst (by omega) ht.inputs) hu⟩

/-- An accepted TX completes after its last cycle (R157). -/
theorem runsTo_completed :
    ∃ t, RunsTo (1 + txBusyCycles s) s t ∧ t.cmd.curOp = .none ∧ t.cmd.done = true ∧
      t.ltx.lowRun = s.cfg.latchCyc ∧ t.fmem = s.fmem := by
  have hpos : 0 < txBusyCycles s := by
    obtain ⟨_, _, hgap, _⟩ := params_positive hs.cfgOk
    unfold txBusyCycles
    omega
  obtain ⟨n, hn⟩ := Nat.exists_eq_add_one.2 hpos
  obtain ⟨t, hrun, ht⟩ := runsTo_inTx hs hacc hno (n := n) (by omega)
  obtain ⟨u, hu⟩ := step_answers ht.inv
  exact ⟨u, hn ▸ hrun.succ hu, ht.completes hn.symm (hno.currentInput_rst (by omega) ht.inputs) hu⟩

end WholeTx

/-- A TX written to CMD in an idle block is accepted (R150), and the inputs that follow are those of its cycles. -/
theorem tx_begins {i : CycleIn} {l : List CycleIn} {s : State} {n : Nat} (hidle : s.cmd.curOp = .none)
    (hin : s.inputs = i :: l) (hw : WritesCmd i 0x10000000) (hno : NoResetFor n l) :
    Accepts (currentInput s) s .tx ∧ NoResetFor n s.inputs.tail := by
  obtain ⟨hrst, hreq, haddr, hdata⟩ := hw
  rw [currentInput, hin]
  exact ⟨⟨hrst, hreq, haddr, hidle, by rw [hdata]; decide, rfl⟩, hno⟩

/-- Settles O22: a TX runs through all its cycles with `curOp` TX, and completes after the last. -/
theorem txDuration : Obligations.TxDuration := by
  unfold Obligations.TxDuration
  refine ⟨fun i l s hs hidle hin hw hno => ?_, by decide⟩
  obtain ⟨hacc, hno⟩ := tx_begins hidle hin hw hno
  refine ⟨rfl, fun n hn => ?_, runsTo_completed hs hacc hno⟩
  obtain ⟨t, hrun, ht⟩ := runsTo_inTx hs hacc hno hn
  exact ⟨t, hrun, ht.curOp, ht.inv.cmdOk.2 (by simp [ht.curOp])⟩

/-- Settles O21: in each cycle of a TX LTX's position says whether the line waits, sends a cycle of a bit or holds the
gap. -/
theorem txWaveform : Obligations.TxWaveform := by
  unfold Obligations.TxWaveform
  intro i l s hs hidle hin hw hno
  obtain ⟨hacc, hno⟩ := tx_begins hidle hin hw hno
  have hwait := lowRunNext_add_txWaitCycles s
  have hbusy : txBusyCycles s = txWaitCycles s + 24 * s.cfg.nPix * s.cfg.tbitCyc + s.cfg.latchCyc := rfl
  refine ⟨fun m hm => ?wait, fun j hj c hc => ?bits, fun m hm => ?gap⟩
  case wait =>
    obtain ⟨t, hrun, ht⟩ := runsTo_inTx hs hacc hno (n := m) (by omega)
    refine ⟨t, hrun, ledO_of_txPosition ht.inv.ltxOk (.inl ?_)⟩
    rw [ht.position, ht.cfg]
    omega
  case bits =>
    have hlt := bitCycle_lt hj hc
    obtain ⟨t, hrun, ht⟩ := runsTo_inTx hs hacc hno (n := txWaitCycles s + (j * s.cfg.tbitCyc + c)) (by omega)
    refine ⟨t, by simpa only [Nat.add_assoc] using hrun, ?_⟩
    rw [← ht.cfg] at hj hc
    have hled := ledO_of_txPosition_bits ht.inv.ltxOk ht.curOp hj hc (by rw [ht.position, ht.cfg]; omega)
    rw [hled, ht.cfg, ht.fmem, highTime]
  case gap =>
    obtain ⟨t, hrun, ht⟩ :=
      runsTo_inTx hs hacc hno (n := txWaitCycles s + (24 * s.cfg.nPix * s.cfg.tbitCyc + m)) (by omega)
    refine ⟨t, by simpa only [Nat.add_assoc] using hrun, ledO_of_txPosition ht.inv.ltxOk (.inr ?_)⟩
    rw [ht.position, ht.cfg, frameBits]
    omega

/-- Settles O25: a reset cycle zeroes `lowRun`, and LTX's next state counts it in every phase. -/
theorem lowRunCountsLowCycles : Obligations.LowRunCountsLowCycles := by
  unfold Obligations.LowRunCountsLowCycles
  intro s t h
  rcases step_cases s t h with ⟨hrst, rfl⟩ | ⟨hrst, m, level, _, _, rfl⟩
  · simp [hrst, State.resetWith]
  · simp [hrst, lowRunNext_eq]

/-- Settles O19: every bit of the frame lies in a byte that exists, and bytes are 8 bits in address order. -/
theorem frameBitOrder : Obligations.FrameBitOrder := by
  unfold Obligations.FrameBitOrder
  refine ⟨fun s j hj => ?_, fun fb p k q hk hq => ?_⟩
  · have hbyte : j / 8 < fbSize s := by
      unfold fbSize
      omega
    rw [frameBit, memRead_of_lt s _ hbyte, bindNext_next]
  · have hbyte : (24 * p + 8 * k + q) / 8 = 3 * p + k := by omega
    have hbit : (24 * p + 8 * k + q) % 8 = q := by omega
    rw [frameBitOf, hbyte, hbit]

end Sys2Proof.Machine
end

section
/-! PROOFS. The two-wire master outside a command, and every way a command can end (spec/43_rtc.md R182, R195, R202 to
R207). -/

namespace Sys2Proof.Machine

/-! ## At rest -/

/-- Without an RTC command RTCM is at rest (R182). -/
theorem rtcmResting_of_not_rtc {s : State} (h : RtcmOk s) (hop : isRtcOp s.cmd.curOp = false) : RtcmResting s.rtcm := by
  have hseg := rtSeg_of_not_rtc s h hop
  obtain ⟨_, hrest, _⟩ := h
  exact hrest hseg

theorem isRtcOp_eq_false_iff (op : CurOp) : isRtcOp op = false ↔ op ≠ .rtcrd ∧ op ≠ .rtcwr := by
  simp [isRtcOp]

/-! ## The last segment -/

/-- Both sequences end with STOP's release of SDA, which samples nothing (R187). -/
theorem getLast?_segmentsOf {op : CurOp} {held : TimeOfDay} {g : Segment}
    (h : (segmentsOf op held).getLast? = some g) : g.atEnd = .nothing := by
  cases op with
  | none | tx => simp [segmentsOf] at h
  | rtcrd | rtcwr =>
    simp only [segmentsOf, readSegs, writeSegs, stopList, List.getLast?_append, List.getLast?_cons_cons,
      List.getLast?_singleton, Option.some_or, Option.some.injEq] at h
    rw [← h]
    rfl

/-- A segment with a check or a sample is not the last of its list. -/
theorem succ_lt_length_of_atEnd {t : State} {k : Nat} {g : Segment} (hg : (segments t)[k]? = some g)
    (hend : g.atEnd ≠ .nothing) : k + 1 < (segments t).length := by
  obtain ⟨hk, _⟩ := List.getElem?_eq_some_iff.1 hg
  refine lt_of_le_of_ne hk fun hlast => hend (getLast?_segmentsOf (op := t.cmd.curOp) (held := t.rtcm.held) ?_)
  rw [List.getLast?_eq_getElem?, ← segments, ← hlast, Nat.add_sub_cancel, hg]

/-- STOP begins inside the list. -/
theorem stopIndex_lt_length {t : State} {k : Nat} {g : Segment} (hg : (segments t)[k]? = some g) :
    stopIndex t < (segments t).length := by
  obtain ⟨hk, _⟩ := List.getElem?_eq_some_iff.1 hg
  rw [stopIndex]
  omega

/-- Inside the list the sequence goes on: RTCM alone is written. -/
theorem goSegment_of_lt {k : Nat} {t : State} (h : k < (segments t).length) :
    goSegment k t = { t with rtcm := enterSegment k (segments t)[k] t.rtcm } := by
  rw [goSegment, List.getElem?_eq_getElem h]

/-- After the list the sequence ends. -/
theorem goSegment_of_le {k : Nat} {t : State} (h : (segments t).length ≤ k) : goSegment k t = sequenceEnd t := by
  rw [goSegment, List.getElem?_eq_none h]

/-! ## How a command ends -/

/-- The errors of an RTCRD found in segment `k` after all three bytes came: RANGE, or a TIMEOUT in the final STOP (R204). -/
abbrev AllReceived (t : State) (k : Nat) (e : BusError) : Prop :=
  t.cmd.curOp = .rtcrd ∧ (e.code = .range ∨ e.code = .timeout ∧ stopIndex t ≤ k)

/-- A cycle of segment `k` goes on with the command or ends it. -/
inductive RtcmOutcome (t : State) (k : Nat) : State → Prop where
  /-- The command goes on. -/
  | runs (r : RtcmUnit) : RtcmOutcome t k { t with rtcm := r }
  /-- RTCRD succeeds (R203). -/
  | reads (hop : t.cmd.curOp = .rtcrd) (hvalid : rxValid t.rtcm.rtRx = true) : RtcmOutcome t k (readSuccess t)
  /-- RTCWR succeeds (R207). -/
  | writes (hop : t.cmd.curOp ≠ .rtcrd) : RtcmOutcome t k (writeSuccess t)
  /-- The command fails (R204, R207). -/
  | fails (e : BusError) : RtcmOutcome t k (busFail e (if AllReceived t k e then storeRaw t else t))

/-- An error that says nothing of the bytes received leaves RTCRAW alone. -/
theorem RtcmOutcome.fails_of_not {t : State} {k : Nat} {e : BusError} (h : ¬AllReceived t k e) :
    RtcmOutcome t k (busFail e t) := by
  simpa only [if_neg h] using RtcmOutcome.fails (t := t) (k := k) e

/-- The error a recovery reports is a NACK, which is found before the bytes come (R195). -/
theorem not_allReceived_of_pending {t : State} {e : BusError} (h : pendingErrorOk t.rtcm = true)
    (he : t.rtcm.rtErr = some e) (k : Nat) : ¬AllReceived t k e := by
  simp only [pendingErrorOk, he, Bool.or_eq_true, decide_eq_true_eq] at h
  rintro ⟨_, hcode | ⟨hcode, _⟩⟩ <;> simp [hcode] at h

theorem sequenceEnd_outcome {t : State} (k : Nat) (h : pendingErrorOk t.rtcm = true) :
    RtcmOutcome t k (sequenceEnd t) := by
  unfold sequenceEnd
  split
  case h_1 e he => exact .fails_of_not (not_allReceived_of_pending h he k)
  case h_2 =>
    split_ifs with hop hvalid
    · exact .reads hop hvalid
    · have hall : AllReceived t k { phase := .read, code := .range } := ⟨hop, .inl rfl⟩
      simpa only [if_pos hall] using RtcmOutcome.fails (t := t) (k := k) { phase := .read, code := .range }
    · exact .writes hop

theorem goSegment_succ_outcome {t : State} (k : Nat) (h : pendingErrorOk t.rtcm = true) :
    RtcmOutcome t k (goSegment (k + 1) t) := by
  rcases Nat.lt_or_ge (k + 1) (segments t).length with hlt | hle
  · rw [goSegment_of_lt hlt]
    exact .runs _
  · rw [goSegment_of_le hle]
    exact sequenceEnd_outcome k h

/-- Going on inside the list from a state whose RTCM a sample touched. -/
theorem goSegment_sampled_outcome {t : State} {j : Nat} (r : RtcmUnit) (hheld : r.held = t.rtcm.held)
    (hj : j < (segments t).length) (k : Nat) : RtcmOutcome t k (goSegment j { t with rtcm := r }) := by
  rw [← segments_congr t { t with rtcm := r } rfl hheld] at hj
  rw [goSegment_of_lt hj]
  exact .runs _

/-- Only a segment without a sample can be the last, so the sequence ends with the bytes it had before. -/
theorem segmentEnd_outcome {t : State} {k : Nat} {g : Segment} (sample : Bool) (hg : (segments t)[k]? = some g)
    (h : pendingErrorOk t.rtcm = true) : RtcmOutcome t k (segmentEnd k g sample t) := by
  unfold segmentEnd
  cases hend : g.atEnd with
  | nothing => exact goSegment_succ_outcome k h
  | arbitrate =>
    cases sample with
    | true => exact goSegment_succ_outcome k h
    | false => exact .fails_of_not (by simp)
  | acknowledge code =>
    cases sample with
    | true => exact goSegment_sampled_outcome _ (by rfl) (stopIndex_lt_length hg) k
    | false => exact goSegment_succ_outcome k h
  | dataBit | store => exact goSegment_sampled_outcome _ (by rfl) (succ_lt_length_of_atEnd hg (by simp [hend])) k

theorem stretchTimeout_outcome {t : State} (k : Nat) (g : Segment) (h : pendingErrorOk t.rtcm = true) :
    RtcmOutcome t k (stretchTimeout k g t) := by
  unfold stretchTimeout
  split
  case h_1 e he => exact .fails_of_not (not_allReceived_of_pending h he k)
  case h_2 =>
    have hfails := RtcmOutcome.fails (t := t) (k := k) { phase := g.phase, code := .timeout }
    simpa only [AllReceived, reduceCtorEq, false_or, true_and] using hfails

/-- What a cycle of RTCM can do in segment `k`, said once. -/
theorem segmentCycle_outcome (i : CycleIn) {k : Nat} {g : Segment} (s : State) {t : State}
    (hg : (segments t)[k]? = some g) (h : pendingErrorOk t.rtcm = true) :
    RtcmOutcome t k (segmentCycle i k g s t) := by
  unfold segmentCycle
  split_ifs
  · exact .runs _
  · exact stretchTimeout_outcome k g h
  · exact .runs _
  · exact segmentEnd_outcome _ hg h

/-! ## One step of an RTC command -/

/-- RTCM is in a segment of the list while it runs a command. -/
theorem exists_segment_of_rtc {s : State} (h : RtcmOk s) (hop : isRtcOp s.cmd.curOp = true) :
    ∃ k g, s.rtcm.rtSeg = some k ∧ (segments s)[k]? = some g := by
  obtain ⟨hrun, _, hseg, _⟩ := h
  obtain ⟨k, hk⟩ := Option.ne_none_iff_exists'.1 (hrun.1 hop)
  cases hg : (segments s)[k]? with
  | none => simp [segmentOk, hk, hg] at hseg
  | some g => exact ⟨k, g, hk, hg⟩

/-- While an RTC command runs, the host writes neither RTCM nor `curOp` (spec/40_command.md R126), and RTCM's cycle is the
step's effect on both. -/
theorem step_outcome_of_rtc {s t : State} (hs : s.Inv) (hop : isRtcOp s.cmd.curOp = true)
    (hrst : (currentInput s).rst = false) (h : step s = .next t) :
    ∃ k m u, s.rtcm.rtSeg = some k ∧ m.cmd.curOp = s.cmd.curOp ∧ m.rtcm = s.rtcm ∧ RtcmOutcome m k u ∧
      t.cmd = u.cmd ∧ t.rtcm = u.rtcm := by
  obtain ⟨k, g, hk, hg⟩ := exists_segment_of_rtc hs.rtcmOk hop
  obtain ⟨_, _, _, _, hpend, _⟩ := rtcmRegsOk_of_rtcmOk hs.rtcmOk
  rcases step_cases s t h with ⟨hrst', _⟩ | ⟨_, m, level, hm, _, rfl⟩
  · simp [hrst] at hrst'
  rcases hostAccess_units _ s m hm with ⟨c, rfl, hcur⟩ | ⟨hnone, _⟩
  · have hltx := ltxCycle_of_not_tx s { s with cmd := c } hs.ltxOk (isRtcOp_ne_tx hop)
    have hsegs : segments (ltxCycle s { s with cmd := c }) = segments s :=
      segments_congr s _ (by rw [hltx]; exact hcur) (by simp)
    refine ⟨k, ltxCycle s { s with cmd := c }, rtcmCycle (currentInput s) s (ltxCycle s { s with cmd := c }), hk,
      by rw [hltx]; exact hcur, by simp, ?_, rfl, rfl⟩
    simp only [rtcmCycle, hk, hg]
    exact segmentCycle_outcome _ s (by rw [hsegs, hg]) (by simpa using hpend)
  · simp [hnone, isRtcOp] at hop

/-! ## The obligations -/

/-- Settles O28: a reachable state meets the invariant, by which RTCM rests without a command of its own, and a reset cycle
leaves the reset state. -/
theorem linesReleasedOutsideRtc : Obligations.LinesReleasedOutsideRtc := by
  unfold Obligations.LinesReleasedOutsideRtc
  refine ⟨fun s hs hrd hwr => ?_, fun s t hrst hstep => ?_⟩
  · obtain ⟨hscl, hsda, _⟩ :=
      rtcmResting_of_not_rtc (reachable_inv s hs).rtcmOk ((isRtcOp_eq_false_iff _).2 ⟨hrd, hwr⟩)
    exact ⟨hscl, hsda⟩
  · cases (step_of_rst s hrst).symm.trans hstep
    exact ⟨rfl, rfl⟩

/-- RTCRAW's bytes side by side (R203). -/
theorem rxRaw_eq_append (x : RxBytes) : rxRaw x = 0#8 ++ x.hour ++ x.min ++ x.sec :=
  colorWord_eq_append { r := x.hour, g := x.min, b := x.sec }

/-- The final STOP of RTCRD is segments 113 to 115 (R202). -/
theorem stopIndex_of_rtcrd {s : State} (h : s.cmd.curOp = .rtcrd) : stopIndex s = 113 := by
  rw [stopIndex, segments_length, if_pos h]

/-- Settles O41: of the outcomes of RTCM's cycle a failure alone ends an RTCRD with BUSERR 1, and its error decides RTCRAW. -/
theorem failedReadIsStale : Obligations.FailedReadIsStale := by
  unfold Obligations.FailedReadIsStale
  intro s t hs hrst hstep hop hnone herr
  obtain ⟨k, m, u, hk, hcur, hrtcm, hout, hcmd, hunit⟩ :=
    step_outcome_of_rtc hs (by simp [hop, isRtcOp]) hrst hstep
  rw [hop] at hcur
  rw [hcmd] at hnone ⊢
  rw [hunit] at herr ⊢
  cases hout with
  | runs r => simp [hcur] at hnone
  | reads => simp at herr
  | writes hwr => exact absurd hcur hwr
  | fails e =>
    have hall : AllReceived m k e ↔ e.code = .range ∨ e.code = .timeout ∧ 113 ≤ s.rtcm.rtSeg.getD 0 := by
      simp [AllReceived, hcur, stopIndex_of_rtcrd hcur, hk]
    rw [← rxRaw_eq_append]
    by_cases hbytes : AllReceived m k e
    · simp [if_pos hbytes, hall.1 hbytes, hcur, hrtcm]
    · simp [if_neg hbytes, mt hall.2 hbytes, hcur, hrtcm]

end Sys2Proof.Machine
end

section
/-! PROOFS. The millisecond synchronizer (spec/44_millis.md): SMOOTH and ELAPSED as arithmetic, and what one cycle makes of
RAWTICKS, CALIB and the pending latch. -/

namespace Sys2Proof.Machine

/-! ## SMOOTH (R239) -/

/-- The reference formula fits its register: the mean of two 32-bit numbers is one. -/
theorem smooth_reference_toNat (raw cal : Word) :
    (smooth .reference raw cal).toNat = max 1 ((raw.toNat + cal.toNat) / 2) := by
  have hfits : max 1 ((raw.toNat + cal.toNat) / 2) < 2 ^ 32 := by omega
  rw [smooth, BitVec.toNat_ofNat, Nat.mod_eq_of_lt hfits]

/-- The floor of 1 changes the mean only of a second without ticks, smoothed into a CALIB of 1. -/
theorem mean_eq_zero_iff {raw cal : Word} (hcal : cal ≠ 0) :
    (raw.toNat + cal.toNat) / 2 = 0 ↔ raw = 0 ∧ cal = 1 := by
  have hpos := BitVec.toNat_pos_of_ne_zero hcal
  have hraw : raw = 0 ↔ raw.toNat = 0 := BitVec.toNat_inj.symm
  have hone : cal = 1 ↔ cal.toNat = 1 := BitVec.toNat_inj.symm
  rw [hraw, hone]
  omega

/-- Settles O49: SMOOTH never answers 0, and the reference and its floor are arithmetic. -/
theorem smoothObligations : Obligations.SmoothObligations := by
  unfold Obligations.SmoothObligations
  exact ⟨fun f raw cal _ => ⟨BitVec.toNat_pos_of_ne_zero (smooth_ne_zero f raw cal), Nat.le_of_lt_succ (BitVec.isLt _)⟩,
    smooth_reference_toNat, fun _ _ => mean_eq_zero_iff⟩

/-! ## ELAPSED (R236, R237) -/

/-- The register ELAPSED holds its formula exactly. -/
theorem regRead_elapsed_toNat (s : State) : (regRead s 6).toNat = elapsedMs s.msync.rawTicks s.msync.calib := by
  have hfits : elapsedMs s.msync.rawTicks s.msync.calib < 2 ^ 32 :=
    Nat.lt_of_le_of_lt (Nat.min_le_left _ _) (by decide)
  rw [regRead_elapsed_eq_min, ← elapsedMs, BitVec.toNat_ofNat, Nat.mod_eq_of_lt hfits]

/-- ELAPSED is at its limit from a whole calibrated second on. -/
theorem elapsedMs_eq_limit_iff {raw cal : Word} (hcal : cal ≠ 0) : elapsedMs raw cal = 1000 ↔ cal.toNat ≤ raw.toNat := by
  calc elapsedMs raw cal = 1000
      ↔ 1000 ≤ raw.toNat * 1000 / cal.toNat := min_eq_left_iff
    _ ↔ 1000 * cal.toNat ≤ raw.toNat * 1000 := Nat.le_div_iff_mul_le (BitVec.toNat_pos_of_ne_zero hcal)
    _ ↔ cal.toNat ≤ raw.toNat := by omega

/-- ELAPSED is 0 within the first millisecond. -/
theorem elapsedMs_eq_zero_iff {raw cal : Word} (hcal : cal ≠ 0) :
    elapsedMs raw cal = 0 ↔ raw.toNat * 1000 < cal.toNat := by
  calc elapsedMs raw cal = 0
      ↔ raw.toNat * 1000 / cal.toNat = 0 := by rw [elapsedMs]; omega
    _ ↔ raw.toNat * 1000 < cal.toNat := Nat.div_eq_zero_iff_lt (BitVec.toNat_pos_of_ne_zero hcal)

/-- Settles O48: the host reads the formula, whose two ends are facts of truncating division. -/
theorem elapsedRange : Obligations.ElapsedRange := by
  unfold Obligations.ElapsedRange
  intro s hcal
  refine ⟨?formula, regRead_elapsed_le s, ?limit, ?zero⟩ <;> rw [regRead_elapsed_toNat]
  case formula => rfl
  case limit => exact elapsedMs_eq_limit_iff hcal
  case zero => exact elapsedMs_eq_zero_iff hcal

/-! ## One cycle of MSYNC (R243) -/

/-- How many ticks a cycle counts, by `curOp` (R233, R235). -/
theorem ticksCounted_eq (i : CycleIn) (s : State) :
    ticksCounted i s = if s.cmd.curOp = .tx then 0 else s.msync.tickPend.toNat + i.tick.toNat := by
  simp only [ticksCounted, txAct_eq_true]

/-- The pending latch, by `curOp`: a masked tick sets it where there is one (R234), a cycle that counts clears it (R235). -/
theorem tickPendNext_eq (i : CycleIn) (s : State) :
    tickPendNext i s =
      if s.cmd.curOp = .tx then (if i.tick = true ∧ s.cfg.tickPendDepth = 1 then true else s.msync.tickPend)
      else false := by
  simp only [tickPendNext, txAct_eq_true]
  split_ifs with _ hset
  · simp [hset]
  · have hno : (i.tick && decide (s.cfg.tickPendDepth = 1)) = false := by simpa using hset
    rw [hno, Bool.or_false]
  · rfl

/-- A command the cycle accepts is the one the host's access carries out. -/
theorem HostWrites.accepted {i : CycleIn} {s m : State} {c : Instr} (h : HostWrites i s m) (hc : Accepts i s c) :
    Accepted s c m := by
  cases h with
  | elsewhere hne =>
    obtain ⟨_, hreq, haddr, _⟩ := hc
    simp [hreq, haddr] at hne
  | rejects _ _ code hcode =>
    obtain ⟨_, _, _, hidle, hdec, hok⟩ := hc
    simp [rejection_of_decode_ok hidle hdec, hok] at hcode
  | accepts _ d hd _ hacc => exact hd.unique hc ▸ hacc

/-- RECAL 1 alone writes MSYNC at acceptance (R238). -/
theorem Accepted.msync_of_ne {s m : State} {c : Instr} (h : Accepted s c m) (hc : c ≠ .recal true) :
    m.msync = s.msync := by
  cases h with
  | recal1 => exact absurd rfl hc
  | _ => rfl

/-- The host's access restarts the second where it is an accepted RECAL 1, and leaves MSYNC alone otherwise (R238). -/
theorem HostWrites.msync {i : CycleIn} {s m : State} (h : HostWrites i s m) :
    m.msync =
      if Accepts i s (.recal true) then
        { s.msync with calib := smooth s.cfg.smooth s.msync.rawTicks s.msync.calib, rawTicks := 0 }
      else s.msync := by
  split_ifs with hrecal
  · cases h.accepted hrecal
    rfl
  · cases h with
    | elsewhere | rejects => rfl
    | accepts _ c hacc _ ht => exact ht.msync_of_ne fun hc => hrecal (hc ▸ hacc)

/-- MSYNC after a cycle that is no reset cycle: the ticks of the cycle are counted on top of what the host's access left. -/
theorem step_msync {s t : State} (hs : s.Inv) (hrst : (currentInput s).rst = false) (h : step s = .next t) :
    t.msync =
      { rawTicks :=
          addTicks (if Accepts (currentInput s) s (.recal true) then 0 else s.msync.rawTicks)
            (ticksCounted (currentInput s) s)
        calib :=
          if Accepts (currentInput s) s (.recal true) then smooth s.cfg.smooth s.msync.rawTicks s.msync.calib
          else s.msync.calib
        tickPend := tickPendNext (currentInput s) s } := by
  obtain ⟨hpix, _⟩ := params_positive hs.cfgOk
  rcases step_cases s t h with ⟨hrst', _⟩ | ⟨_, m, level, hm, _, rfl⟩
  · simp [hrst] at hrst'
  · rw [closeCycle_msync, engines_msync, (hostAccess_hostWrites hrst hpix hm).msync]
    split_ifs <;> rfl

/-- Settles O44: each register of a cycle's MSYNC, in R243's words. -/
theorem ticksPerCycle : Obligations.TicksPerCycle := by
  unfold Obligations.TicksPerCycle
  rintro _ s t hs rfl hrst h
  rw [step_msync hs hrst h]
  refine ⟨?rawTicks, rfl, tickPendNext_eq _ s⟩
  case rawTicks =>
    rw [addTicks_toNat, ticksCounted_eq, apply_ite BitVec.toNat]
    rfl

/-- Settles O45: an accepted command finds the block idle, so the cycle counts its ticks, at most two, from 0. -/
theorem tickWithRecalStartsNewSecond : Obligations.TickWithRecalStartsNewSecond := by
  unfold Obligations.TickWithRecalStartsNewSecond
  rintro _ s hs rfl hrecal
  have ⟨hrst, _, _, hidle, _⟩ := hrecal
  have htx : s.cmd.curOp ≠ .tx := by simp [hidle]
  obtain ⟨t, h⟩ := step_answers hs
  obtain ⟨hraw, hcalib, hpend⟩ := ticksPerCycle _ s t hs rfl hrst h
  rw [if_pos hrecal, if_neg htx] at hraw
  rw [if_pos hrecal] at hcalib
  rw [if_neg htx] at hpend
  have hheld := Bool.toNat_le s.msync.tickPend
  have harriving := Bool.toNat_le (currentInput s).tick
  exact ⟨htx, t, h, hcalib, by omega, hpend⟩

/-- Counting never makes RAWTICKS smaller: it saturates (R232). -/
theorem le_addTicks_toNat (raw : Word) (n : Nat) : raw.toNat ≤ (addTicks raw n).toNat := by
  rw [addTicks_toNat]
  exact le_min (Nat.le_of_lt_succ raw.isLt) (Nat.le_add_right _ _)

/-- Settles O47: without a RECAL 1 a cycle only counts, and nothing is larger than the largest value. -/
theorem rawTicksNeverWrap : Obligations.RawTicksNeverWrap := by
  unfold Obligations.RawTicksNeverWrap
  rintro _ s t hs rfl hrst hno h
  have hle : s.msync.rawTicks.toNat ≤ t.msync.rawTicks.toNat := by
    rw [step_msync hs hrst h, if_neg hno]
    exact le_addTicks_toNat _ _
  refine ⟨hle, fun hmax => ?_⟩
  rw [hmax] at hle
  exact BitVec.eq_of_toNat_eq (le_antisymm (Nat.le_of_lt_succ (BitVec.isLt _)) hle)

/-- Settles O50: CALIB is a part of the invariant and of the reset state, and a cycle's MSYNC has the old one but for
RECAL 1. -/
theorem calibNeverZero : Obligations.CalibNeverZero := by
  unfold Obligations.CalibNeverZero
  refine ⟨fun s hs => ?reachable, rfl, fun s t hrst h => ?reset, ?step⟩
  case reachable =>
    obtain ⟨hcalib, _⟩ := (reachable_inv s hs).msyncOk
    exact hcalib
  case reset =>
    cases (step_of_rst s hrst).symm.trans h
    rfl
  case step =>
    rintro _ s t hs rfl hrst hno h
    rw [step_msync hs hrst h]
    exact if_neg hno

end Sys2Proof.Machine
end

section
/-! PROOFS. Rejection (spec/60_exceptions.md R260, R262): what a host access writes beside `curOp` and DONE passes through
the rest of its cycle unseen, so the cycle is the one without the access with that write added. -/

namespace Sys2Proof.Machine

/-! ## Updates of the command processor no engine sees -/

/-- A state with its command processor updated. -/
def State.mapCmd (f : CmdUnit → CmdUnit) (s : State) : State := { s with cmd := f s.cmd }

/-- An update that leaves `curOp` alone and can be made before or after a completion (R123): the engines read no other field
of the command processor and write no other than a completion does. -/
structure KeepsCompletion (f : CmdUnit → CmdUnit) : Prop where
  curOp (u : CmdUnit) : (f u).curOp = u.curOp
  finished (u : CmdUnit) : (f u).finished = f u.finished

/-- A rejection is such an update (R260). -/
theorem keepsCompletion_rejected (code : RejCode) : KeepsCompletion fun u => u.rejected code :=
  ⟨fun _ => rfl, fun _ => rfl⟩

@[simp] theorem mapCmd_cmd (f : CmdUnit → CmdUnit) (s : State) : (s.mapCmd f).cmd = f s.cmd := rfl
@[simp] theorem mapCmd_rtcm (f : CmdUnit → CmdUnit) (s : State) : (s.mapCmd f).rtcm = s.rtcm := rfl

/-! ## The engines go past such an update -/

section Engines

variable {f : CmdUnit → CmdUnit} (hf : KeepsCompletion f)
include hf

theorem finishLong_mapCmd (t : State) : finishLong (t.mapCmd f) = (finishLong t).mapCmd f := by
  simp only [finishLong, State.mapCmd, hf.finished]

/-- A completion that writes RTCM too, as every end of an RTC command does. -/
theorem finishLong_withRtcm_mapCmd (r : RtcmUnit) (t : State) :
    finishLong { t.mapCmd f with rtcm := r } = (finishLong { t with rtcm := r }).mapCmd f :=
  finishLong_mapCmd hf { t with rtcm := r }

theorem busFail_mapCmd (e : BusError) (t : State) : busFail e (t.mapCmd f) = (busFail e t).mapCmd f := by
  simp only [busFail, mapCmd_cmd, mapCmd_rtcm, hf.curOp]
  exact finishLong_withRtcm_mapCmd hf _ t

theorem segments_mapCmd (t : State) : segments (t.mapCmd f) = segments t := by
  simp only [segments, mapCmd_cmd, mapCmd_rtcm, hf.curOp]

theorem stopIndex_mapCmd (t : State) : stopIndex (t.mapCmd f) = stopIndex t := by
  simp only [stopIndex, segments_mapCmd hf]

theorem readSuccess_mapCmd (t : State) : readSuccess (t.mapCmd f) = (readSuccess t).mapCmd f :=
  finishLong_withRtcm_mapCmd hf _ t

theorem writeSuccess_mapCmd (t : State) : writeSuccess (t.mapCmd f) = (writeSuccess t).mapCmd f :=
  finishLong_withRtcm_mapCmd hf _ t

theorem sequenceEnd_mapCmd (t : State) : sequenceEnd (t.mapCmd f) = (sequenceEnd t).mapCmd f := by
  rw [sequenceEnd, sequenceEnd, mapCmd_cmd, mapCmd_rtcm, hf.curOp]
  split
  · exact busFail_mapCmd hf _ t
  · split
    · split
      · exact readSuccess_mapCmd hf t
      · exact busFail_mapCmd hf _ (storeRaw t)
    · exact writeSuccess_mapCmd hf t

theorem goSegment_mapCmd (k : Nat) (t : State) : goSegment k (t.mapCmd f) = (goSegment k t).mapCmd f := by
  simp only [goSegment, segments_mapCmd hf]
  split
  · rfl
  · exact sequenceEnd_mapCmd hf t

/-- Going on after a sample has written RTCM. -/
theorem goSegment_withRtcm_mapCmd (k : Nat) (r : RtcmUnit) (t : State) :
    goSegment k { t.mapCmd f with rtcm := r } = (goSegment k { t with rtcm := r }).mapCmd f :=
  goSegment_mapCmd hf k { t with rtcm := r }

theorem segmentEnd_mapCmd (k : Nat) (g : Segment) (sample : Bool) (t : State) :
    segmentEnd k g sample (t.mapCmd f) = (segmentEnd k g sample t).mapCmd f := by
  unfold segmentEnd
  split
  · exact goSegment_mapCmd hf _ t
  · split
    · exact goSegment_mapCmd hf _ t
    · exact busFail_mapCmd hf _ t
  · split
    · rw [stopIndex_mapCmd hf]
      exact goSegment_withRtcm_mapCmd hf _ _ t
    · exact goSegment_mapCmd hf _ t
  · exact goSegment_withRtcm_mapCmd hf _ _ t
  · exact goSegment_withRtcm_mapCmd hf _ _ t

theorem stretchTimeout_mapCmd (k : Nat) (g : Segment) (t : State) :
    stretchTimeout k g (t.mapCmd f) = (stretchTimeout k g t).mapCmd f := by
  simp only [stretchTimeout, mapCmd_cmd, mapCmd_rtcm, hf.curOp, stopIndex_mapCmd hf]
  split
  · exact busFail_mapCmd hf _ t
  · split_ifs
    · exact busFail_mapCmd hf _ (storeRaw t)
    · exact busFail_mapCmd hf _ t

theorem segmentCycle_mapCmd (i : CycleIn) (k : Nat) (g : Segment) (s t : State) :
    segmentCycle i k g s (t.mapCmd f) = (segmentCycle i k g s t).mapCmd f := by
  unfold segmentCycle
  split_ifs
  · rfl
  · exact stretchTimeout_mapCmd hf k g t
  · rfl
  · exact segmentEnd_mapCmd hf k g _ t

theorem rtcmCycle_mapCmd (i : CycleIn) (s t : State) : rtcmCycle i s (t.mapCmd f) = (rtcmCycle i s t).mapCmd f := by
  unfold rtcmCycle
  split
  · rfl
  · split
    · rfl
    · exact segmentCycle_mapCmd hf i _ _ s t

theorem ltxCycle_mapCmd (s t : State) : ltxCycle s (t.mapCmd f) = (ltxCycle s t).mapCmd f := by
  unfold ltxCycle
  split_ifs
  · exact finishLong_mapCmd hf { t with ltx := ltxNext s t.ltx }
  · rfl

theorem engines_mapCmd (i : CycleIn) (s m : State) : engines i s (m.mapCmd f) = (engines i s m).mapCmd f := by
  rw [engines, ltxCycle_mapCmd hf, rtcmCycle_mapCmd hf]
  rfl

end Engines

/-- `led_o` is computed from the frame and LTX alone (R155). -/
theorem driveLed_mapCmd (f : CmdUnit → CmdUnit) (t : State) :
    driveLed (t.mapCmd f) = mapNext (State.mapCmd f) (driveLed t) := by
  have hlevel : ledLevel (t.mapCmd f) = ledLevel t := rfl
  rw [driveLed, driveLed, hlevel]
  cases ledLevel t <;> rfl

/-! ## The whole cycle -/

/-- The engines, then `led_o`, then the model's bookkeeping. -/
theorem clockEdge_eq (i : CycleIn) (s m : State) :
    clockEdge i s m = mapNext (closeCycle i s) (driveLed (engines i s m)) := rfl

/-- The engines read the tick and the bus, not the host's access. -/
theorem engines_noAccess (i : CycleIn) (s m : State) : engines (noAccess i) s m = engines i s m := rfl

/-- A cycle without a host access is its clock edge. -/
theorem runCycle_noAccess {i : CycleIn} (hrst : i.rst = false) (s : State) :
    runCycle (noAccess i) s = clockEdge (noAccess i) s s := by
  simp [runCycle, hostAccess, noAccess, hrst]

/-- The clock edge after such an update is the clock edge without the access, the update and `h_rdata` added. -/
theorem clockEdge_mapCmd {f : CmdUnit → CmdUnit} (hf : KeepsCompletion f) (i : CycleIn) (s m : State) :
    clockEdge i s (m.mapCmd f) =
      mapNext (fun t => { t.mapCmd f with hRdata := readData i s }) (clockEdge (noAccess i) s m) := by
  rw [clockEdge_eq, clockEdge_eq, engines_noAccess, engines_mapCmd hf, driveLed_mapCmd]
  cases driveLed (engines i s m) <;> rfl

/-- A cycle whose access only makes such an update differs from the cycle without the access by the update and
`h_rdata`. -/
theorem runCycle_of_hostAccess_mapCmd {f : CmdUnit → CmdUnit} (hf : KeepsCompletion f) {i : CycleIn} {s : State}
    (hrst : i.rst = false) (h : hostAccess i s = .next (s.mapCmd f)) :
    runCycle i s = mapNext (fun t => { t.mapCmd f with hRdata := readData i s }) (runCycle (noAccess i) s) := by
  rw [runCycle_noAccess hrst, ← clockEdge_mapCmd hf]
  simp [runCycle, hrst, h]

/-! ## The obligation -/

/-- Settles O6: a rejection is an update of the command processor no engine sees. -/
theorem rejectedWriteChangesOnlyRej : Obligations.RejectedWriteChangesOnlyRej := by
  unfold Obligations.RejectedWriteChangesOnlyRej
  intro i s code hrst hreq haddr hcode
  have haccess : hostAccess i s = .next (s.mapCmd fun u => u.rejected code) := by
    rw [hostAccess, if_pos hreq, haddr, regWrite_cmd, issueCommand_of_rejection hcode]
    rfl
  exact runCycle_of_hostAccess_mapCmd (keepsCompletion_rejected code) hrst haccess

end Sys2Proof.Machine
end

section
/-! PROOFS. The command encoding both ways (spec/30_encoding.md R91 to R95): a row fixes every bit of a word but those of the
operand fields, and the encoder puts the operands where the decoder reads them. -/

namespace Sys2Proof

/-! ## Fields read back -/

theorem idxField_formatI (op : BitVec 4) {i : Nat} (h : i < 2 ^ 16) : idxField (formatI op i) = i := by
  have hread : (formatI op i).extractLsb' 0 16 = BitVec.ofNat 16 i := by
    simp only [formatI, place]
    ext k hk
    interval_cases k <;> simp
  rw [idxField, field, hread, BitVec.toNat_ofNat, Nat.mod_eq_of_lt h]

theorem hourField_formatT (op : BitVec 4) {h : Nat} (m s : Nat) (hh : h < 2 ^ 5) : hourField (formatT op h m s) = h := by
  have hread : (formatT op h m s).extractLsb' 16 5 = BitVec.ofNat 5 h := by
    simp only [formatT, place]
    ext k hk
    interval_cases k <;> simp
  rw [hourField, field, hread, BitVec.toNat_ofNat, Nat.mod_eq_of_lt hh]

theorem minuteField_formatT (op : BitVec 4) {m : Nat} (h s : Nat) (hm : m < 2 ^ 6) :
    minuteField (formatT op h m s) = m := by
  have hread : (formatT op h m s).extractLsb' 8 6 = BitVec.ofNat 6 m := by
    simp only [formatT, place]
    ext k hk
    interval_cases k <;> simp
  rw [minuteField, field, hread, BitVec.toNat_ofNat, Nat.mod_eq_of_lt hm]

theorem secondField_formatT (op : BitVec 4) {s : Nat} (h m : Nat) (hs : s < 2 ^ 6) :
    secondField (formatT op h m s) = s := by
  have hread : (formatT op h m s).extractLsb' 0 6 = BitVec.ofNat 6 s := by
    simp only [formatT, place]
    ext k hk
    interval_cases k <;> simp
  rw [secondField, field, hread, BitVec.toNat_ofNat, Nat.mod_eq_of_lt hs]

theorem cField_formatB (op : BitVec 4) (c : Bool) : cField (formatB op c) = c := by
  simp [cField, formatB, place]

/-- The operands of a well-formed command are read back from its word. -/
theorem commandOfOpcode_encode {c : Instr} (h : c.wf = true) : commandOfOpcode c.opcode.toNat (encode c) = c := by
  cases c with
  | nop | tx | clear | rtcrd => rfl
  | pset i => exact congrArg Instr.pset (idxField_formatI _ (of_decide_eq_true h))
  | padd i => exact congrArg Instr.padd (idxField_formatI _ (of_decide_eq_true h))
  | pget p => exact congrArg Instr.pget (idxField_formatI _ (of_decide_eq_true h))
  | setoff o => exact congrArg Instr.setoff (idxField_formatI _ (of_decide_eq_true h))
  | rtcwr hr m s =>
    simp only [Instr.wf, Bool.and_eq_true, decide_eq_true_eq] at h
    obtain ⟨⟨hh, hm⟩, hs⟩ := h
    change Instr.rtcwr (hourField (formatT 8 hr m s)) (minuteField (formatT 8 hr m s)) (secondField (formatT 8 hr m s)) = _
    rw [hourField_formatT 8 m s hh, minuteField_formatT 8 hr s hm, secondField_formatT 8 hr m hs]
  | recal c => exact congrArg Instr.recal (cField_formatB _ c)

/-- The word of a command is of the command's row (R97). -/
theorem rowMatches_encode (c : Instr) : rowMatches (encode c) c.row.1 c.row.2 = true := by
  cases c with
  | nop => exact Laws.EncodingSelectsRow.nop
  | tx => exact Laws.EncodingSelectsRow.tx
  | clear => exact Laws.EncodingSelectsRow.clear
  | pset i => exact Laws.EncodingSelectsRow.pset i
  | padd i => exact Laws.EncodingSelectsRow.padd i
  | pget p => exact Laws.EncodingSelectsRow.pget p
  | setoff o => exact Laws.EncodingSelectsRow.setoff o
  | rtcrd => exact Laws.EncodingSelectsRow.rtcrd
  | rtcwr h m s => exact Laws.EncodingSelectsRow.rtcwr h m s
  | recal c => exact Laws.EncodingSelectsRow.recal c

/-- A word of the encoder decodes to its command. -/
theorem decode_encode {c : Instr} (h : c.wf = true) : decode (encode c) = .ok c := by
  obtain ⟨hop, hres⟩ := (rowMatches_row_iff _ c).1 (rowMatches_encode c)
  have hlt : c.opcode.toNat < 0xA := (exists_opcode_iff _).1 ⟨c, rfl⟩
  rw [hop] at hres
  calc decode (encode c)
      = .ok (commandOfOpcode c.opcode.toNat (encode c)) :=
        (decodesAs_commandOfOpcode hlt (encode c) hop).trans (if_pos hres)
    _ = .ok c := congrArg _ (commandOfOpcode_encode h)

/-! ## Words put together again -/

theorem formatI_of_row {w : Word} {op : BitVec 4} (h : w &&& 0xFFFF0000#32 = place op 28) : formatI op (idxField w) = w := by
  rw [formatI, idxField, field, BitVec.ofNat_toNat, BitVec.setWidth_eq, ← h]
  simp only [place]
  ext k hk
  interval_cases k <;> simp

theorem formatT_of_row {w : Word} {op : BitVec 4} (h : w &&& 0xFFE0C0C0#32 = place op 28) :
    formatT op (hourField w) (minuteField w) (secondField w) = w := by
  simp only [formatT, hourField, minuteField, secondField, field, BitVec.ofNat_toNat, BitVec.setWidth_eq, ← h]
  simp only [place]
  ext k hk
  interval_cases k <;> simp

theorem formatB_of_row {w : Word} {op : BitVec 4} (h : w &&& 0xFFFFFFFE#32 = place op 28) :
    formatB op (cField w) = w := by
  rw [formatB, cField, ← h]
  simp only [place]
  ext k hk
  interval_cases k <;> simp

/-- A word of a row is the word of the row's command with the operands of its fields: the mask and the fields cover all 32
bits. -/
theorem encode_commandOfOpcode {w : Word} {c : Instr} (hc : c = commandOfOpcode c.opcode.toNat w)
    (hrow : rowMatches w c.row.1 c.row.2 = true) : encode c = w := by
  have hmask : w &&& c.row.1 = c.row.2 := beq_iff_eq.1 hrow
  cases c with
  | nop | tx | clear | rtcrd => exact hmask.symm.trans BitVec.and_allOnes
  | pset | padd | pget | setoff =>
    cases hc
    exact formatI_of_row hmask
  | rtcwr =>
    cases hc
    exact formatT_of_row hmask
  | recal =>
    cases hc
    exact formatB_of_row hmask

/-- The fields of a word fit their widths. -/
theorem wf_commandOfOpcode (op : Nat) (w : Word) : (commandOfOpcode op w).wf = true := by
  have hfield (lo width : Nat) : field w lo width < 2 ^ width := (w.extractLsb' lo width).isLt
  unfold commandOfOpcode
  split <;> simp only [Instr.wf, Bool.and_eq_true, decide_eq_true_eq]
  case h_9 => exact ⟨⟨hfield 16 5, hfield 8 6⟩, hfield 0 6⟩
  all_goals exact hfield 0 16

/-- TIME with opcode 8 on top is the word of that time's RTCWR (spec/30_encoding.md section 1). -/
theorem timeWord_or_opcode (t : Machine.TimeOfDay) :
    Machine.timeWord t ||| 0x80000000 = encode (.rtcwr t.hour.toNat t.min.toNat t.sec.toNat) := by
  simp only [Machine.timeWord, encode, formatT, BitVec.ofNat_toNat, BitVec.setWidth_eq, place]
  ext k hk
  interval_cases k <;> simp

/-! ## The obligations -/

/-- Settles O1: the word is of the command's row, and the operands are read back from the fields they were put in. -/
theorem decodeOfEncode : Obligations.DecodeOfEncode := by
  unfold Obligations.DecodeOfEncode
  exact fun _ h => decode_encode h

/-- Settles O2: the operands of a decoded word are its fields, and with them the row's match is the whole word. -/
theorem encodeOfDecode : Obligations.EncodeOfDecode := by
  unfold Obligations.EncodeOfDecode
  intro w c h
  have hc := eq_commandOfOpcode_of_decode_ok h
  exact ⟨hc ▸ wf_commandOfOpcode _ w, encode_commandOfOpcode hc (rowMatches_of_decode_ok h)⟩

/-- Settles O4: each word is evaluated. -/
theorem specWordsDecode : Obligations.SpecWordsDecode := by
  unfold Obligations.SpecWordsDecode
  decide

/-- Settles O5: the word is the encoder's, and the fields of TIME have the widths of format T. -/
theorem timeWordIsAnRtcwr : Obligations.TimeWordIsAnRtcwr := by
  unfold Obligations.TimeWordIsAnRtcwr
  intro t
  have hwf : (Instr.rtcwr t.hour.toNat t.min.toNat t.sec.toNat).wf = true := by
    simp only [Instr.wf, Bool.and_eq_true, decide_eq_true_eq]
    exact ⟨⟨t.hour.isLt, t.min.isLt⟩, t.sec.isLt⟩
  rw [timeWord_or_opcode, decode_encode hwf]

end Sys2Proof
end

section
/-! PROOFS. The step of the machine, its invariant and what a host access does to its cycle (spec/20_memory.md R60, R71;
spec/60_exceptions.md R267, R270; spec/70_reset_and_hazards.md R290). -/

namespace Sys2Proof.Machine

/-! ## The invariant -/

/-- Settles O58: the engines keep their units, and the host's access the others. -/
theorem stepKeepsInvariant : Obligations.StepKeepsInvariant := by
  unfold Obligations.StepKeepsInvariant
  exact step_inv

/-- Settles O57: each unit's part of the invariant at its reset values, for the reference configuration too. -/
theorem resetMeetsInvariant : Obligations.ResetMeetsInvariant := by
  unfold Obligations.ResetMeetsInvariant
  exact ⟨resetWith_inv, resetWith_inv Params.reference (by decide)⟩

/-- Settles O59: no frame access of a command faults, and `txBit` stays in the frame. -/
theorem stepNeverStops : Obligations.StepNeverStops := by
  unfold Obligations.StepNeverStops
  exact fun _ hs => step_answers hs

/-- Settles O55: a reset cycle writes the reset state, and the bookkeeping of every cycle. -/
theorem resetOverridesEverything : Obligations.ResetOverridesEverything := by
  unfold Obligations.ResetOverridesEverything
  exact step_of_rst

/-! ## A cycle with a write to CMD -/

/-- `h_rdata` is 0 in a cycle that does not read (R60, log 29). -/
theorem readData_of_ne {i : CycleIn} (h : i.hReq ≠ 1) (s : State) : readData i s = 0 := if_neg h

/-- A cycle that is no reset cycle is the host's access and then the clock edge. -/
theorem runCycle_of_not_rst {i : CycleIn} (h : i.rst = false) (s : State) :
    runCycle i s = bindNext (hostAccess i s) fun t => clockEdge i s t := if_neg (by simp [h])

/-- A write to CMD issues the word. -/
theorem hostAccess_cmd {i : CycleIn} (hreq : i.hReq = 2) (haddr : i.hAddr = 0) (s : State) :
    hostAccess i s = issueCommand i.hWdata s := by
  rw [hostAccess, if_pos hreq, haddr, regWrite_cmd]

/-- Settles O54: the host's access of the cycle is `exec` of the decoded command, and the cycle reads nothing. -/
theorem stepRunsDecodedCommand : Obligations.StepRunsDecodedCommand := by
  unfold Obligations.StepRunsDecodedCommand
  rintro _ w c s rfl ⟨hrst, hreq, haddr, rfl⟩ hdec
  have hread : readData (currentInput s) s = 0 := readData_of_ne (by simp [hreq]) s
  rw [step, runCycle_of_not_rst hrst, hostAccess_cmd hreq haddr, issueCommand_of_decode_ok hdec]
  simp only [clockEdge, closeCycle, hread]

/-! ## An instantaneous command in an idle block -/

/-- An instantaneous command touches neither LTX nor RTCM, whether it is accepted or its operand is out of range. -/
theorem exec_of_instant {c : Instr} {s t : State} (hidle : s.cmd.curOp = .none) (hc : longOp c = .none)
    (h : exec c s = .next t) : t.cmd.curOp = .none ∧ t.ltx = s.ltx := by
  rcases exec_cases c s t h with ⟨hbusy, _⟩ | ⟨_, rfl⟩ | ⟨_, hacc⟩
  · exact absurd hidle ((busy_eq_true s).1 hbusy)
  · exact ⟨hidle, rfl⟩
  · cases hacc with
    | tx | rtcrd | rtcwr => cases hc
    | _ => exact ⟨hidle, rfl⟩

/-- Where no command is executing and none is started, the engines count `lowRun` and the ticks. -/
theorem engines_of_idle {i : CycleIn} {s m : State} (hs : s.Inv) (hidle : s.cmd.curOp = .none) (hltx : m.ltx = s.ltx) :
    engines i s m = { m with
      ltx := { s.ltx with lowRun := lowRunNext s }
      msync := { m.msync with
        rawTicks := addTicks m.msync.rawTicks (s.msync.tickPend.toNat + i.tick.toNat)
        tickPend := false } } := by
  have htx : s.cmd.curOp ≠ .tx := by simp [hidle]
  have hphase : s.ltx.txPhase = .idle := hs.ltxOk.1.2 htx
  have hcount : ticksCounted i s = s.msync.tickPend.toNat + i.tick.toNat := (ticksCounted_eq i s).trans (if_neg htx)
  rw [engines_of_not_rtc i s m hs.rtcmOk (by simp [hidle, isRtcOp]), ltxCycle_of_not_tx s m hs.ltxOk htx,
    ltxNext_idle _ hphase, hltx, msyncCycle, hcount, tickPendNext_unmasked i s ((txAct_eq_false s).2 htx)]

/-- Settles O8: the host's access is `exec` of the command, and the engines of an idle block count only; `led_o` stays 0
outside the BIT phase. -/
theorem instantCommandTakesOneCycle : Obligations.InstantCommandTakesOneCycle := by
  unfold Obligations.InstantCommandTakesOneCycle
  rintro _ c s t hs rfl hrst hreq haddr hidle hdec hc hexec
  obtain ⟨hop, hltx⟩ := exec_of_instant hidle hc hexec
  have hphase : s.ltx.txPhase = .idle := hs.ltxOk.1.2 (by simp [hidle])
  have hled : s.ltx.ledO = false := hs.ltxOk.ledO_of_not_bits (by simp [hphase])
  have hlevel : ledLevel (engines (currentInput s) s t) = .next false := by
    rw [engines_of_idle hs hidle hltx]
    exact ledLevel_of_not_bits _ (by simp [hphase])
  refine ⟨hop, ?_⟩
  rw [stepRunsDecodedCommand _ _ c s rfl ⟨hrst, hreq, haddr, rfl⟩ hdec, hexec, bindNext_next]
  change bindNext (driveLed (engines (currentInput s) s t)) _ = _
  rw [driveLed, hlevel, engines_of_idle hs hidle hltx]
  simp only [bindNext_next, ← hled]

/-! ## What an access does to its cycle -/

/-- An access that writes nothing leaves its cycle as it is without it, but for `h_rdata`. -/
theorem runCycle_of_hostAccess_self {i : CycleIn} {s : State} (hrst : i.rst = false) (h : hostAccess i s = .next s) :
    runCycle i s = mapNext (fun t => { t with hRdata := readData i s }) (runCycle (noAccess i) s) :=
  runCycle_of_hostAccess_mapCmd (f := id) ⟨fun _ => rfl, fun _ => rfl⟩ hrst h

/-- A write to ARG is seen by no engine. -/
theorem keepsCompletion_arg (v : Word) : KeepsCompletion fun u => { u with arg := v } :=
  ⟨fun _ => rfl, fun _ => rfl⟩

/-- A cycle that is no reset cycle keeps for `h_rdata` what it carried (R60). -/
theorem hRdata_of_runCycle {i : CycleIn} {s t : State} (hrst : i.rst = false) (h : runCycle i s = .next t) :
    t.hRdata = readData i s := by
  rw [runCycle_of_not_rst hrst, bindNext_eq_next] at h
  obtain ⟨m, _, hedge⟩ := h
  obtain ⟨u, _, hclose⟩ := (bindNext_eq_next _ _ _).1 hedge
  cases hclose
  rfl

/-- Where `h_rdata` is 0 anyway, keeping it again changes nothing. -/
theorem mapNext_hRdata_zero {i : CycleIn} {s : State} (hrst : i.rst = false) (hreq : i.hReq ≠ 1)
    (f : CmdUnit → CmdUnit) :
    mapNext (fun t => { t.mapCmd f with hRdata := readData i s }) (runCycle (noAccess i) s) =
      mapNext (State.mapCmd f) (runCycle (noAccess i) s) := by
  cases h : runCycle (noAccess i) s with
  | next t =>
    have hzero : t.hRdata = readData i s :=
      (hRdata_of_runCycle (i := noAccess i) hrst h).trans (readData_of_ne hreq s).symm
    simp only [mapNext, bindNext_next, State.mapCmd, ← hzero]
  | fault | refused => rfl

/-- An access that neither reads nor writes leaves its cycle as it is without it. -/
theorem runCycle_eq_noAccess {i : CycleIn} {s : State} (hrst : i.rst = false) (hreq : i.hReq ≠ 1)
    (h : hostAccess i s = .next s) : runCycle i s = runCycle (noAccess i) s := by
  rw [runCycle_of_hostAccess_self hrst h]
  refine (mapNext_hRdata_zero hrst hreq id).trans ?_
  cases runCycle (noAccess i) s <;> rfl

/-- Settles O51: a read writes nothing, a write to ARG is seen by no engine, and the other accesses but a write to CMD
neither read nor write. -/
theorem hostAccessEffects : Obligations.HostAccessEffects := by
  unfold Obligations.HostAccessEffects
  intro i s hrst
  refine ⟨fun hreq => ?read, fun hreq haddr => ?cmd, fun hreq haddr => ?arg, fun hreq haddr => ?elsewhere,
    fun hreq => ?none, fun t hreq h => ?data⟩
  case read =>
    rw [runCycle_of_hostAccess_self hrst (if_neg (by simp [hreq])), readData, if_pos hreq]
  case cmd => rw [runCycle_of_not_rst hrst, hostAccess_cmd hreq haddr]
  case arg =>
    have haccess : hostAccess i s = .next (s.mapCmd fun u => { u with arg := i.hWdata }) := by
      rw [hostAccess, if_pos hreq, haddr, regWrite_arg]
      rfl
    rw [runCycle_of_hostAccess_mapCmd (keepsCompletion_arg i.hWdata) hrst haccess,
      mapNext_hRdata_zero hrst (by simp [hreq])]
    rfl
  case elsewhere =>
    refine runCycle_eq_noAccess hrst (by simp [hreq]) ?_
    rw [hostAccess, if_pos hreq, regWrite_of_two_le _ s _ haddr]
  case none =>
    refine runCycle_eq_noAccess hrst ?_ (if_neg ?_) <;> rcases hreq with hreq | hreq <;> simp [hreq]
  case data => rw [hRdata_of_runCycle hrst h, readData_of_ne hreq]

end Sys2Proof.Machine
end

section
/-! PROOFS. STATUS, and the acceptance of TX, RTCRD, RTCWR and RECAL (spec/10_state.md R25; spec/42_transmit.md R150;
spec/43_rtc.md R201, R205; spec/44_millis.md R238). -/

namespace Sys2Proof.Machine

/-! ## STATUS -/

/-- BUSPHASE is the bit of the read phase (spec/43_rtc.md R200). -/
theorem phaseBit_getLsbD (ph : BusPhase) : (phaseBit ph).getLsbD 0 = decide (ph = .read) := by
  cases ph <;> rfl

/-- The two bits at REJCODE's place are REJCODE's. -/
theorem statusWord_rejCode (s : State) : (statusWord s).extractLsb' 8 2 = rejBits s.cmd.rejCode := by
  simp only [statusWord, place]
  ext k hk
  interval_cases k <;> simp

/-- The four bits at BUSCODE's place are BUSCODE's. -/
theorem statusWord_busCode (s : State) : (statusWord s).extractLsb' 12 4 = busBits s.rtcm.busCode := by
  simp only [statusWord, place]
  ext k hk
  interval_cases k <;> simp

/-- Settles O53: each field is placed at its bits, and nothing at the reserved ones. -/
theorem statusFields : Obligations.StatusFields := by
  unfold Obligations.StatusFields
  intro s
  refine ⟨statusWord_bit_busy s, statusWord_bit_txAct s, ?done, ?busErr, ?busPhase, ?secChg, ?tickPend, ?rej,
    statusWord_rejCode s, ?low, statusWord_busCode s, ?high⟩
  case busPhase =>
    rw [← phaseBit_getLsbD]
    simp [statusWord, place]
  case low | high =>
    simp only [statusWord, place]
    ext k hk
    interval_cases k <;> simp
  all_goals simp [statusWord, place]

/-! ## Acceptance -/

/-- RTCRD's acceptance touches of RTCM the bus-error fields, SECCHG, and what begins START (R201, R211). -/
theorem startRead_eq (r : RtcmUnit) :
    startRead r =
      { r with
        busErr := false, busPhase := .write, busCode := .none, secChg := false
        rtSeg := some 0, rtWait := 0, rtCnt := 0, sclOe := false, sdaOe := false } := rfl

/-- RTCWR's acceptance touches the bus-error fields, the operands held, and what begins START (R205, R211). -/
theorem startWrite_eq (h m sec : Nat) (r : RtcmUnit) :
    startWrite h m sec r =
      { r with
        busErr := false, busPhase := .write, busCode := .none
        held := { hour := BitVec.ofNat 5 h, min := BitVec.ofNat 6 m, sec := BitVec.ofNat 6 sec }
        rtSeg := some 0, rtWait := 0, rtCnt := 0, sclOe := false, sdaOe := false } := rfl

/-- Settles O18: opcode 1 has no other command, and an idle block starts the frame. -/
theorem txAcceptance : Obligations.TxAcceptance := by
  unfold Obligations.TxAcceptance
  exact ⟨decodesAs_commandOfOpcode (op := 1) (by decide), fun s =>
    ⟨exec_of_busy .tx s, fun hidle => issue_ok s _ ((busy_eq_false s).2 hidle)⟩⟩

/-- Settles O26: opcode 7 has no other command, and an idle block begins START. -/
theorem rtcrdAcceptance : Obligations.RtcrdAcceptance := by
  unfold Obligations.RtcrdAcceptance
  refine ⟨decodesAs_commandOfOpcode (op := 7) (by decide), fun s => ⟨exec_of_busy .rtcrd s, fun hidle => ?_⟩⟩
  rw [← startRead_eq]
  exact issue_ok s _ ((busy_eq_false s).2 hidle)

/-- Settles O27: opcode 8 has no other command; an idle block checks the ranges and begins START with the operands held. -/
theorem rtcwrAcceptance : Obligations.RtcwrAcceptance := by
  unfold Obligations.RtcwrAcceptance
  refine ⟨decodesAs_commandOfOpcode (op := 8) (by decide), fun h m sec s =>
    ⟨exec_of_busy (.rtcwr h m sec) s, fun hidle hout => ?_, fun hidle hh hm hsec => ?_⟩⟩
  · exact exec_of_not_argOk hidle (decide_eq_false (by omega))
  · have hrange : timeInRange h m sec = true :=
      (timeInRange_eq_argOk s.cfg h m sec).trans (decide_eq_true ⟨hh, hm, hsec⟩)
    refine ⟨{ hour := BitVec.ofNat 5 h, min := BitVec.ofNat 6 m, sec := BitVec.ofNat 6 sec }, ?_, ?_, ?_, ?_⟩
    · exact (BitVec.toNat_ofNat h 5).trans (Nat.mod_eq_of_lt (by omega))
    · exact (BitVec.toNat_ofNat m 6).trans (Nat.mod_eq_of_lt (by omega))
    · exact (BitVec.toNat_ofNat sec 6).trans (Nat.mod_eq_of_lt (by omega))
    · rw [← startWrite_eq]
      exact issue_of_accepted ((busy_eq_false s).2 hidle) hrange _

/-- Settles O43: opcode 9 has no other command, and an idle block accepts it with its own effect. -/
theorem recalResult : Obligations.RecalResult := by
  unfold Obligations.RecalResult
  exact ⟨decodesAs_commandOfOpcode (op := 9) (by decide), fun s =>
    ⟨fun c => exec_of_busy (.recal c) s, fun hidle => issue_ok s _ ((busy_eq_false s).2 hidle),
      fun hidle => issue_ok s _ ((busy_eq_false s).2 hidle)⟩⟩

/-! ## A pixel written and read back -/

/-- A written slot holds the color written. -/
theorem readSlot_writeSlot {m : Memory} (h : m.wf) (p : Nat) (c : Color) : (m.writeSlot p c).readSlot p = c := by
  rw [Memory.readSlot, Memory.read_writeSlot_red h, Memory.read_writeSlot_green h, Memory.read_writeSlot_blue h]

/-- The color word of ARG's color is ARG without its top byte (spec/30_encoding.md R96). -/
theorem colorWord_colorOf (arg : Word) : colorWord (colorOf arg) = arg &&& 0x00FFFFFF := by
  simp only [colorWord, colorOf, place]
  ext k hk
  interval_cases k <;> simp

/-- Settles O16: PSET leaves the block idle and the frame's size as it is, so PGET answers the slot's color. -/
theorem pgetReadsWhatPsetWrote : Obligations.PgetReadsWhatPsetWrote := by
  unfold Obligations.PgetReadsWhatPsetWrote
  intro i s hwf hidle hpix
  refine ⟨_, _, exec_pset_of_idle hidle hpix i, exec_pget_of_idle hidle (phys_lt s i hpix), ?_⟩
  exact (congrArg colorWord (readSlot_writeSlot hwf _ _)).trans (colorWord_colorOf _)

end Sys2Proof.Machine
end

section
/-! PROOFS. What LTX's waveform depends on, and the ticks a whole TX masks (spec/42_transmit.md R155, R160;
spec/44_millis.md R233 to R235). -/

namespace Sys2Proof.Machine

/-! ## What LTX reads -/

/-- `lowRun` counts from LTX and the parameters alone (R156). -/
theorem lowRunNext_congr {s s' : State} (hcfg : s.cfg = s'.cfg) (hltx : s.ltx = s'.ltx) :
    lowRunNext s = lowRunNext s' := by
  simp only [lowRunNext, hcfg, hltx]

/-- LTX's next state comes from LTX and the parameters alone (R158). -/
theorem ltxNext_congr {s s' : State} (hcfg : s.cfg = s'.cfg) (hltx : s.ltx = s'.ltx) (u : LtxUnit) :
    ltxNext s u = ltxNext s' u := by
  simp only [ltxNext, lowRunNext_congr hcfg hltx, hcfg, hltx]

/-- The level of the line comes from LTX, the frame memory and the parameters alone (R152). `led_o` of before has no part
in it. -/
theorem ledPattern_congr {t t' : State} {u : LtxUnit} {level level' : Bool} (hcfg : t.cfg = t'.cfg)
    (hfb : t.fmem.fb = t'.fmem.fb) (hltx : t.ltx = { u with ledO := level }) (hltx' : t'.ltx = { u with ledO := level' }) :
    ledPattern t = ledPattern t' := by
  simp only [ledPattern, hcfg, hfb, hltx, hltx']

/-- Settles O23: LTX's next state, its last cycle and the level of the line read nothing else, and no host access reaches
the frame memory while TX runs. -/
theorem waveformIgnoresEverythingElse : Obligations.WaveformIgnoresEverythingElse := by
  unfold Obligations.WaveformIgnoresEverythingElse
  intro s s' t t' hs hs' hop hop' hcfg hfb hltx hrst hrst' h h'
  have hu := step_ltx_of_tx hs hop hrst h
  have hu' := step_ltx_of_tx hs' hop' hrst' h'
  rw [← ltxNext_congr hcfg hltx, ← hltx] at hu'
  have hlevel : ledPattern t = ledPattern t' := by
    refine ledPattern_congr ?_ ?_ hu hu'
    · rw [step_cfg h, step_cfg h', hcfg]
    · rw [step_fmem hs hrst h (.inl hop), step_fmem hs' hrst' h' (.inl hop'), hfb]
  have hlast : txLastCycle s = txLastCycle s' := by simp only [txLastCycle, hcfg, hltx]
  obtain ⟨hcur, _⟩ := step_cmd_of_tx hs hop hrst h
  obtain ⟨hcur', _⟩ := step_cmd_of_tx hs' hop' hrst' h'
  exact ⟨by rw [hu, hu', hlevel], by rw [hcur, hcur', hlast]⟩

/-- Settles O24: the invariant says so of the level of the line, and LTX is idle without a TX. -/
theorem lineLowOutsideBits : Obligations.LineLowOutsideBits := by
  unfold Obligations.LineLowOutsideBits
  intro s hs
  have hl := (reachable_inv s hs).ltxOk
  refine ⟨hl.ledO_of_not_bits, fun hop => hl.ledO_of_not_bits ?_⟩
  have hidle : s.ltx.txPhase = .idle := hl.1.2 hop
  simp [hidle]

/-! ## The ticks of a whole TX -/

/-- What the pending latch of the given depth holds of `k` masked ticks (R234). -/
def ticksHeld (p : Params) (k : Nat) : Nat := min k p.tickPendDepth.val

/-- One more cycle in the latch. -/
theorem ticksHeld_add (p : Params) (k : Nat) (pend tick : Bool) (h : pend.toNat = ticksHeld p k) :
    (if tick = true ∧ p.tickPendDepth = 1 then true else pend).toNat = ticksHeld p (k + tick.toNat) := by
  cases tick with
  | false => simpa using h
  | true =>
    unfold ticksHeld at h ⊢
    rcases Fin.exists_fin_two.1 ⟨p.tickPendDepth, rfl⟩ with hd | hd
    · simpa [hd] using h
    · simp [hd]

/-- The ticks of the cycles used up, one cycle later. -/
theorem ticksIn_take_succ {l : List CycleIn} {n : Nat} {i : CycleIn} (h : l[n]? = some i) :
    ticksIn (l.take (n + 1)) = ticksIn (l.take n) + i.tick.toNat := by
  rw [ticksIn, ticksIn, List.take_add_one, h, List.countP_append]
  cases hi : i.tick <;> simp [hi]

/-- MSYNC in cycle `n` of a TX accepted in the cycle of `s`: the ticks up to the acceptance counted, and of those that came
since, the latch's share held (R233, R234). -/
structure TicksMasked (s : State) (n : Nat) (t : State) : Prop where
  rawTicks : t.msync.rawTicks = addTicks s.msync.rawTicks (s.msync.tickPend.toNat + (currentInput s).tick.toNat)
  calib : t.msync.calib = s.msync.calib
  tickPend : t.msync.tickPend.toNat = ticksHeld s.cfg (ticksIn (s.inputs.tail.take n))

/-- No tick counted is no change of RAWTICKS. -/
theorem addTicks_zero (raw : Word) : addTicks raw 0 = raw := by
  refine BitVec.eq_of_toNat_eq ((addTicks_toNat raw 0).trans (min_eq_right ?_))
  exact Nat.le_of_lt_succ raw.isLt

/-- A cycle accepts no other command than the one it accepts. -/
theorem not_accepts_of_ne {i : CycleIn} {s : State} {c d : Instr} (hc : Accepts i s c) (hne : c ≠ d) :
    ¬Accepts i s d := fun hd => hne (hc.unique hd)

/-- Nothing is accepted while a command is executing (R120). -/
theorem not_accepts_of_busy {i : CycleIn} {s : State} (hop : s.cmd.curOp ≠ .none) (c : Instr) : ¬Accepts i s c :=
  fun ⟨_, _, _, hidle, _⟩ => hop hidle

/-- The tick of the acceptance cycle is counted with the one pending (R233, R235). -/
theorem ticksMasked_zero {s t : State} (hs : s.Inv) (hacc : Accepts (currentInput s) s .tx) (h : step s = .next t) :
    TicksMasked s 0 t := by
  have ⟨hrst, _, _, hidle, _⟩ := hacc
  have hno : ¬Accepts (currentInput s) s (.recal true) := not_accepts_of_ne hacc (by simp)
  have htx : s.cmd.curOp ≠ .tx := by simp [hidle]
  have hm := step_msync hs hrst h
  rw [if_neg hno, if_neg hno, ticksCounted_eq, if_neg htx, tickPendNext_eq, if_neg htx] at hm
  exact { rawTicks := by rw [hm], calib := by rw [hm], tickPend := by simp [hm, ticksHeld, ticksIn] }

/-- A cycle of a TX counts no tick and offers its own to the latch (R233, R234). -/
theorem TicksMasked.succ {s t u : State} {n : Nat} (hm : TicksMasked s n t) (ht : InTx s n t) (hn : n < s.inputs.tail.length)
    (hrst : (currentInput t).rst = false) (h : step t = .next u) : TicksMasked s (n + 1) u := by
  have hno : ¬Accepts (currentInput t) t (.recal true) := not_accepts_of_busy (by simp [ht.curOp]) _
  have hin : s.inputs.tail[n]? = some (currentInput t) := by
    rw [currentInput, ht.inputs, List.drop_eq_getElem_cons hn, List.getElem?_eq_getElem hn]
  have hu := step_msync ht.inv hrst h
  rw [if_neg hno, if_neg hno, ticksCounted_eq, if_pos ht.curOp, addTicks_zero, tickPendNext_eq, if_pos ht.curOp, ht.cfg] at hu
  exact {
    rawTicks := by rw [hu, hm.rawTicks]
    calib := by rw [hu, hm.calib]
    tickPend := by rw [hu, ticksIn_take_succ hin, ticksHeld_add s.cfg _ _ _ hm.tickPend] }

/-- Two counts after each other are one count of the sum, saturating once (R232). -/
theorem addTicks_addTicks_toNat (raw : Word) (m n : Nat) :
    (addTicks (addTicks raw m) n).toNat = min maxTicks (raw.toNat + m + n) := by
  rw [addTicks_toNat, addTicks_toNat]
  omega

section WholeTx

variable {s : State} (hs : s.Inv) (hacc : Accepts (currentInput s) s .tx)
  (hno : NoResetFor (txBusyCycles s + 1) s.inputs.tail)
include hs hacc hno

/-- A TX masks the ticks of all its cycles. -/
theorem runsTo_ticksMasked {n : Nat} (hn : n < txBusyCycles s) :
    ∃ t, RunsTo (1 + n) s t ∧ InTx s n t ∧ TicksMasked s n t := by
  induction n with
  | zero =>
    obtain ⟨t, ht⟩ := step_answers hs
    exact ⟨t, RunsTo.succ rfl ht, inTx_zero hs hacc ht, ticksMasked_zero hs hacc ht⟩
  | succ n ih =>
    obtain ⟨t, hrun, ht, hm⟩ := ih (by omega)
    obtain ⟨u, hu⟩ := step_answers ht.inv
    have hrst := hno.currentInput_rst (by omega) ht.inputs
    have hlen : n < s.inputs.tail.length := by
      obtain ⟨hle, _⟩ := hno
      omega
    exact ⟨u, hrun.succ hu, ht.succ (by omega) hrst hu, hm.succ ht hlen hrst hu⟩

/-- The cycle in which a TX completes is masked too; the next begins with the block idle. -/
theorem runsTo_unmasked :
    ∃ t, RunsTo (1 + txBusyCycles s) s t ∧ t.Inv ∧ t.cmd.curOp = .none ∧
      t.inputs = s.inputs.tail.drop (txBusyCycles s) ∧ TicksMasked s (txBusyCycles s) t := by
  have hpos : 0 < txBusyCycles s := by
    obtain ⟨_, _, hgap, _⟩ := params_positive hs.cfgOk
    unfold txBusyCycles
    omega
  obtain ⟨n, hn⟩ := Nat.exists_eq_add_one.2 hpos
  obtain ⟨t, hrun, ht, hm⟩ := runsTo_ticksMasked hs hacc hno (n := n) (by omega)
  obtain ⟨u, hu⟩ := step_answers ht.inv
  have hrst := hno.currentInput_rst (by omega) ht.inputs
  have hlen : n < s.inputs.tail.length := by
    obtain ⟨hle, _⟩ := hno
    omega
  obtain ⟨hcur, _⟩ := ht.completes hn.symm hrst hu
  rw [hn]
  exact ⟨u, hrun.succ hu, step_inv t u ht.inv hu, hcur, by rw [step_inputs hu, ht.inputs, List.tail_drop],
    hm.succ ht hlen hrst hu⟩

end WholeTx

/-- Settles O46: the ticks up to the acceptance are counted, the latch holds its share of the masked ones, and the first
cycle with TXACT 0 counts it with its own tick. -/
theorem txLosesMaskedTicks : Obligations.TxLosesMaskedTicks := by
  unfold Obligations.TxLosesMaskedTicks
  intro i r l s hs hidle hin hw hno hr hreq
  obtain ⟨hacc, hno⟩ := tx_begins hidle hin hw hno
  obtain ⟨t, hrun, ht, hop, hinputs, hm⟩ := runsTo_unmasked hs hacc hno
  obtain ⟨u, hu⟩ := step_answers ht
  have htail : s.inputs.tail = l := by simp [hin]
  have hcur : currentInput t = r := by
    obtain ⟨hlt, hget⟩ := List.getElem?_eq_some_iff.1 hr
    rw [currentInput, hinputs, htail, List.drop_eq_getElem_cons hlt, hget]
  have hi : currentInput s = i := by rw [currentInput, hin]
  have hrst : (currentInput t).rst = false := hno.currentInput_rst (Nat.lt_succ_self _) hinputs
  have hnot : ¬Accepts (currentInput t) t (.recal true) := by
    rintro ⟨_, hreq', _⟩
    exact hreq (hcur ▸ hreq')
  have htx : t.cmd.curOp ≠ .tx := by simp [hop]
  have hmsync := step_msync ht hrst hu
  rw [if_neg hnot, if_neg hnot, ticksCounted_eq, if_neg htx, tickPendNext_eq, if_neg htx, hm.rawTicks, hm.calib,
    hm.tickPend, hcur, hi, htail] at hmsync
  refine ⟨u, hrun.succ hu, ?_, by rw [hmsync], by rw [hmsync]⟩
  rw [hmsync, addTicks_addTicks_toNat, ticksHeld, maxTicks]
  simp only [Nat.add_assoc]

end Sys2Proof.Machine
end

section
/-! PROOFS. BCD, and the two bus sequences as lists of segments (spec/43_rtc.md sections 1 to 3). -/

namespace Sys2Proof.Machine

/-! ## BCD (R198, R199) -/

/-- The high nibble of a byte. -/
theorem highNibble_toNat (x : Byte) : (x >>> 4).toNat = x.toNat / 16 := by
  rw [BitVec.toNat_ushiftRight, Nat.shiftRight_eq_div_pow]

/-- The low nibble of a byte. -/
theorem lowNibble_toNat (x : Byte) : (x &&& 0x0F).toNat = x.toNat % 16 :=
  (BitVec.toNat_and x 0x0F).trans (Nat.and_two_pow_sub_one_eq_mod x.toNat 4)

theorem bcdDec_eq (x : Byte) : bcdDec x = x.toNat / 16 * 10 + x.toNat % 16 := by
  rw [bcdDec, highNibble_toNat, lowNibble_toNat]

theorem bcdValid_eq (x : Byte) (n : Nat) :
    bcdValid x n = decide (x.toNat / 16 ≤ 9 ∧ x.toNat % 16 ≤ 9 ∧ bcdDec x ≤ n) := by
  rw [bcdValid, highNibble_toNat, lowNibble_toNat, Bool.decide_and, Bool.decide_and, Bool.and_assoc]

/-- The two digits of a number below 100, one in each nibble. -/
theorem bcd_toNat {v : Nat} (h : v < 100) : (bcd v).toNat = v / 10 * 16 + v % 10 := by
  have hlow : v % 10 < 2 ^ 4 := by omega
  have hhigh : (BitVec.ofNat 8 (v / 10) <<< 4).toNat = (v / 10) <<< 4 := by
    rw [BitVec.toNat_shiftLeft, BitVec.toNat_ofNat, Nat.shiftLeft_eq, Nat.shiftLeft_eq]
    omega
  rw [bcd, BitVec.toNat_or, hhigh, BitVec.toNat_ofNat, Nat.mod_eq_of_lt (by omega : v % 10 < 2 ^ 8),
    ← Nat.shiftLeft_add_eq_or_of_lt hlow, Nat.shiftLeft_eq]

/-- A number below 100 is decoded from its own digits. -/
theorem bcdDec_bcd {v : Nat} (h : v < 100) : bcdDec (bcd v) = v := by
  rw [bcdDec_eq, bcd_toNat h]
  omega

/-- The digits of a number up to 59 are valid. -/
theorem bcdValid_bcd {v n : Nat} (hv : v ≤ n) (hn : n ≤ 59) : bcdValid (bcd v) n = true := by
  have hdec : bcdDec (bcd v) = v := bcdDec_bcd (by omega)
  rw [bcdValid_eq, hdec, bcd_toNat (by omega), decide_eq_true_iff]
  omega

/-- A valid byte is the two digits of the number it decodes to. -/
theorem bcd_bcdDec {x : Byte} {n : Nat} (hn : n ≤ 59) (h : bcdValid x n = true) : bcd (bcdDec x) = x := by
  rw [bcdValid_eq, decide_eq_true_iff] at h
  obtain ⟨hhigh, hlow, hle⟩ := h
  refine BitVec.eq_of_toNat_eq ?_
  rw [bcd_toNat (by omega), bcdDec_eq]
  omega

/-- An hour's digits leave bit 6 of the byte 0, so nothing is masked (spec/90_conflicts.md C7). -/
theorem hourByte_eq_bcd : ∀ h ≤ 23, hourByte h = bcd h := by decide

/-- Settles O33: the nibbles are quotient and remainder by 16, and a valid byte's are the digits of a number below 100. -/
theorem bcdRoundTrip : Obligations.BcdRoundTrip := by
  unfold Obligations.BcdRoundTrip
  exact ⟨bcdDec_eq, bcdValid_eq, fun v n hv hn => ⟨bcdDec_bcd (by omega), bcdValid_bcd hv hn⟩,
    fun _ _ hn h => bcd_bcdDec hn h, hourByte_eq_bcd⟩

/-! ## The segment lists (R202, R206) -/

/-- A byte sent, in the words of the rules. -/
theorem map_wireStepOf_sendByte (ph : BusPhase) (x : Byte) (nack : BusCode) :
    (sendByte ph x nack).map wireStepOf = sentWire ph x nack := rfl

/-- A byte received, in the words of the rules. -/
theorem map_wireStepOf_recvByte (k : Nat) (ack : Bool) :
    (recvByte k ack).map wireStepOf = receivedWire k ack := rfl

theorem map_wireStepOf_readSegs : readSegs.map wireStepOf = readWire := by
  simp only [readSegs, List.map_append, map_wireStepOf_sendByte, map_wireStepOf_recvByte]
  rfl

theorem map_wireStepOf_writeSegs (t : TimeOfDay) :
    (writeSegs t).map wireStepOf = writeWire t.hour.toNat t.min.toNat t.sec.toNat := by
  simp only [writeSegs, List.map_append, map_wireStepOf_sendByte]
  rfl

/-- Settles O34: each part of a sequence is the rules' part, and the parts stand in the same order. -/
theorem sequenceLengths : Obligations.SequenceLengths := by
  unfold Obligations.SequenceLengths
  exact ⟨rfl, fun _ => rfl, rfl, rfl, map_wireStepOf_readSegs, map_wireStepOf_writeSegs⟩

/-- Both sequences end with STOP (R187, R202, R206). -/
theorem exists_segmentsOf_eq_append_stopList {op : CurOp} (h : isRtcOp op = true) (held : TimeOfDay) :
    ∃ front ph, segmentsOf op held = front ++ stopList ph := by
  cases op with
  | none | tx => cases h
  | rtcrd => exact ⟨_, .read, rfl⟩
  | rtcwr => exact ⟨_, .write, rfl⟩

/-- STOP's segments stand at the end of the list. -/
theorem getElem?_stopIndex_add {s : State} (h : isRtcOp s.cmd.curOp = true) :
    ∃ ph, ∀ j, (segments s)[stopIndex s + j]? = (stopList ph)[j]? := by
  obtain ⟨front, ph, heq⟩ := exists_segmentsOf_eq_append_stopList h s.rtcm.held
  have hsegs : segments s = front ++ stopList ph := heq
  have hstop : stopIndex s = front.length := by
    simp [stopIndex, hsegs, stopList]
  exact ⟨ph, fun j => by rw [hsegs, hstop, List.getElem?_append_right (by omega), Nat.add_sub_cancel_left]⟩

/-- No segment of STOP checks or samples anything (R187). -/
theorem atEnd_of_mem_stopList {ph : BusPhase} {g : Segment} (h : g ∈ stopList ph) : g.atEnd = .nothing := by
  simp only [stopList, List.mem_cons, List.not_mem_nil, or_false] at h
  obtain rfl | rfl | rfl := h <;> rfl

/-- A segment with a check or a sample comes before STOP. -/
theorem lt_stopIndex_of_atEnd {s : State} {k : Nat} {g : Segment} (hop : isRtcOp s.cmd.curOp = true)
    (hg : (segments s)[k]? = some g) (hend : g.atEnd ≠ .nothing) : k < stopIndex s := by
  by_contra hge
  obtain ⟨ph, hstop⟩ := getElem?_stopIndex_add hop
  have hmem := hstop (k - stopIndex s)
  rw [Nat.add_sub_cancel' (Nat.not_lt.1 hge), hg] at hmem
  exact hend (atEnd_of_mem_stopList (List.mem_of_getElem? hmem.symm))

/-- A segment from which no received bit or byte is taken (R190, R191). -/
def receivesNothing (g : Segment) : Bool :=
  match g.atEnd with
  | .dataBit => false
  | .store _ => false
  | _ => true

theorem sendBits_receivesNothing (ph : BusPhase) (x : Byte) (n : Nat) : ∀ g ∈ sendBits ph x n, receivesNothing g = true := by
  induction n with
  | zero => simp [sendBits]
  | succ n ih =>
    intro g hg
    simp only [sendBits, sendBit, List.cons_append, List.nil_append, List.mem_cons] at hg
    rcases hg with rfl | rfl | hg
    · rfl
    · cases x.getLsbD n <;> rfl
    · exact ih g hg

/-- What a list loads changes no use of a sample. -/
theorem map_atEnd_loading (x : Byte) (l : List Segment) : (loading x l).map (·.atEnd) = l.map (·.atEnd) := by
  cases l <;> rfl

theorem sendByte_receivesNothing (ph : BusPhase) (x : Byte) (c : BusCode) :
    ∀ g ∈ sendByte ph x c, receivesNothing g = true := by
  intro g hg
  rcases List.mem_append.1 hg with hg | hg
  · have hmap := List.mem_map_of_mem (f := (·.atEnd)) hg
    rw [map_atEnd_loading] at hmap
    obtain ⟨g', hg', hatEnd⟩ := List.mem_map.1 hmap
    rw [receivesNothing, ← hatEnd]
    exact sendBits_receivesNothing ph x 8 g' hg'
  · simp only [ackList, List.mem_cons, List.not_mem_nil, or_false] at hg
    obtain rfl | rfl := hg <;> rfl

/-- RTCWR receives nothing (R206). -/
theorem writeSegs_receivesNothing (t : TimeOfDay) : ∀ g ∈ writeSegs t, receivesNothing g = true := by
  intro g hg
  simp only [writeSegs, List.mem_append] at hg
  rcases hg with (((((hg | hg) | hg) | hg) | hg) | hg) | hg
  case inr =>
    rw [receivesNothing, atEnd_of_mem_stopList hg]
  case inl.inl.inl.inl.inl.inl =>
    simp only [startList, List.mem_cons, List.not_mem_nil, or_false] at hg
    obtain rfl | rfl := hg <;> rfl
  all_goals exact sendByte_receivesNothing _ _ _ g hg

theorem readSegs_load_after_dataBit :
    ∀ k < 116, readSegs[k]?.map (·.atEnd) = some .dataBit → readSegs[k + 1]?.bind (·.load) = none := by
  decide

/-- After a received data bit no byte to send is loaded: another bit follows, or the acknowledge (R193). -/
theorem load_after_dataBit {s : State} {k : Nat} {g g' : Segment} (hg : (segments s)[k]? = some g)
    (hend : g.atEnd = .dataBit) (hg' : (segments s)[k + 1]? = some g') : g'.load = none := by
  unfold segments segmentsOf at hg hg'
  cases hop : s.cmd.curOp <;> simp only [hop] at hg hg'
  case none | tx => cases hg
  case rtcrd =>
    obtain ⟨hk, _⟩ := List.getElem?_eq_some_iff.1 hg
    have hload := readSegs_load_after_dataBit k hk (by rw [hg, Option.map_some, hend])
    rwa [hg', Option.bind_some] at hload
  case rtcwr =>
    have hno := writeSegs_receivesNothing _ g (List.mem_of_getElem? hg)
    simp [receivesNothing, hend] at hno

end Sys2Proof.Machine
end

section
/-! PROOFS. One cycle of an RTC command (spec/43_rtc.md section 1): what it writes, said once for a wait cycle, a counted cycle
and the last cycle of a segment. -/

namespace Sys2Proof.Machine

/-! ## The end of a segment as one equation -/

/-- Whether the sample at a segment's end is a NACK (R189). -/
def nacked (g : Segment) (sample : Bool) : Bool :=
  match g.atEnd with
  | .acknowledge _ => sample
  | _ => false

/-- A bit shifted into a byte, most significant first (R193). -/
def shiftIn (z : Byte) (b : Bool) : Byte := (z <<< 1) ||| (BitVec.ofBool b).setWidth 8

/-- What the sample at a segment's end makes of RTCM, where the command goes on (R189 to R193). -/
def sampled (g : Segment) (sample : Bool) (r : RtcmUnit) : RtcmUnit :=
  match g.atEnd with
  | .nothing => r
  | .arbitrate => r
  | .acknowledge code => if sample then { r with rtErr := some { phase := g.phase, code := code } } else r
  | .dataBit => { r with rtShift := shiftIn r.rtShift sample }
  | .store j => { r with rtRx := storeByte j r.rtShift r.rtRx }

/-- The segment after segment `k` of this state: STOP's first after a NACK, else the next (R195). -/
def nextIndex (s : State) (k : Nat) (g : Segment) (sample : Bool) : Nat :=
  if nacked g sample then stopIndex s else k + 1

/-- A segment's end is a lost arbitration, or RTCM goes on with the sample taken. -/
theorem segmentEnd_eq (k : Nat) (g : Segment) (sample : Bool) (t : State) :
    segmentEnd k g sample t =
      if g.atEnd = .arbitrate ∧ sample = false then busFail { phase := g.phase, code := .arbLost } t
      else goSegment (nextIndex t k g sample) { t with rtcm := sampled g sample t.rtcm } := by
  unfold segmentEnd nextIndex nacked sampled
  cases g.atEnd with
  | nothing | dataBit | store => rfl
  | arbitrate | acknowledge => cases sample <;> rfl

/-- A segment that samples nothing leaves RTCM alone. -/
theorem sampled_of_nothing {g : Segment} (h : g.atEnd = .nothing) (sample : Bool) (r : RtcmUnit) :
    sampled g sample r = r := by
  simp [sampled, h]

theorem nacked_of_ne {g : Segment} (h : ∀ code, g.atEnd ≠ .acknowledge code) (sample : Bool) : nacked g sample = false := by
  unfold nacked
  split
  · rename_i code hc
    exact absurd hc (h code)
  · rfl

/-- The registers of RTCM that last beyond a segment: those the host reads, and the operands held. -/
structure KeepsRegs (r r' : RtcmUnit) : Prop where
  time : r'.time = r.time
  rtcRaw : r'.rtcRaw = r.rtcRaw
  busErr : r'.busErr = r.busErr
  busPhase : r'.busPhase = r.busPhase
  busCode : r'.busCode = r.busCode
  secChg : r'.secChg = r.secChg
  held : r'.held = r.held

/-- A sample touches none of them. -/
theorem keepsRegs_sampled (g : Segment) (sample : Bool) (r : RtcmUnit) : KeepsRegs r (sampled g sample r) := by
  unfold sampled
  split
  case h_3 => cases sample <;> exact ⟨rfl, rfl, rfl, rfl, rfl, rfl, rfl⟩
  all_goals exact ⟨rfl, rfl, rfl, rfl, rfl, rfl, rfl⟩

/-! ## What RTCM's cycle is given -/

/-- The operation and RTCM are the same in both states. -/
structure SameBus (s m : State) : Prop where
  curOp : m.cmd.curOp = s.cmd.curOp
  rtcm : m.rtcm = s.rtcm

theorem SameBus.segments {s m : State} (h : SameBus s m) : segments m = segments s :=
  segments_congr s m h.curOp (by rw [h.rtcm])

theorem SameBus.stopIndex {s m : State} (h : SameBus s m) : stopIndex m = stopIndex s := by
  rw [Machine.stopIndex, Machine.stopIndex, h.segments]

/-- The command processor and RTCM of `t` are what `f` makes of a state that is in the same operation and segment as `s`. -/
def Writes (s t : State) (f : State → State) : Prop :=
  ∃ m, SameBus s m ∧ t.cmd = (f m).cmd ∧ t.rtcm = (f m).rtcm

/-- One cycle, no reset cycle, of segment `k`, which is `g`, from `s` to `t`. -/
structure BusCycle (s t : State) (k : Nat) (g : Segment) : Prop where
  inv : s.Inv
  rst : (currentInput s).rst = false
  seg : s.rtcm.rtSeg = some k
  mem : (segments s)[k]? = some g
  step : step s = .next t

section Cycle

variable {s t : State} {k : Nat} {g : Segment} (h : BusCycle s t k g)
include h

theorem BusCycle.isRtcOp : isRtcOp s.cmd.curOp = true := by
  obtain ⟨hrun, _⟩ := h.inv.rtcmOk
  exact hrun.2 (by simp [h.seg])

/-- While an RTC command runs, the host writes neither RTCM nor `curOp` (spec/40_command.md R126). -/
theorem BusCycle.writes_segmentCycle : Writes s t (segmentCycle (currentInput s) k g s) := by
  rcases step_cases s t h.step with ⟨hrst, _⟩ | ⟨_, m, level, hm, _, rfl⟩
  · simp [h.rst] at hrst
  rcases hostAccess_units _ s m hm with ⟨c, rfl, hcur⟩ | ⟨hnone, _⟩
  · have hltx := ltxCycle_of_not_tx s { s with cmd := c } h.inv.ltxOk (isRtcOp_ne_tx h.isRtcOp)
    refine ⟨ltxCycle s { s with cmd := c }, ⟨by rw [hltx]; exact hcur, by rw [hltx]⟩, ?_, ?_⟩ <;>
      simp only [engines, closeCycle_cmd, closeCycle_rtcm, msyncCycle_cmd, msyncCycle_rtcm, rtcmCycle, h.seg, h.mem]
  · have hop := h.isRtcOp
    simp [hnone, Machine.isRtcOp] at hop

/-- A wait cycle before the STRETCH_MAX-th counts (R184). -/
theorem BusCycle.waits (hw : isWaitCycle (currentInput s) g s = true) (hlt : s.rtcm.rtWait + 1 < s.cfg.stretchMax) :
    t.rtcm = { s.rtcm with rtWait := s.rtcm.rtWait + 1 } ∧ t.cmd.curOp = s.cmd.curOp := by
  obtain ⟨m, hm, hcmd, hrtcm⟩ := h.writes_segmentCycle
  rw [segmentCycle, if_pos hw, if_pos hlt] at hcmd hrtcm
  exact ⟨by rw [hrtcm, hm.rtcm], by rw [hcmd, hm.curOp]⟩

/-- The STRETCH_MAX-th wait cycle ends the command (R184). -/
theorem BusCycle.timesOut (hw : isWaitCycle (currentInput s) g s = true) (hmax : s.rtcm.rtWait + 1 = s.cfg.stretchMax) :
    Writes s t (stretchTimeout k g) := by
  obtain ⟨m, hm, hcmd, hrtcm⟩ := h.writes_segmentCycle
  rw [segmentCycle, if_pos hw, if_neg (by omega)] at hcmd hrtcm
  exact ⟨m, hm, hcmd, hrtcm⟩

/-- A counted cycle before the last counts (R183). -/
theorem BusCycle.counts (hw : isWaitCycle (currentInput s) g s = false) (hlt : s.rtcm.rtCnt + 1 < s.cfg.i2cHCyc) :
    t.rtcm = { s.rtcm with rtCnt := s.rtcm.rtCnt + 1 } ∧ t.cmd.curOp = s.cmd.curOp := by
  obtain ⟨m, hm, hcmd, hrtcm⟩ := h.writes_segmentCycle
  rw [segmentCycle, if_neg (by simp [hw]), if_pos hlt] at hcmd hrtcm
  exact ⟨by rw [hrtcm, hm.rtcm], by rw [hcmd, hm.curOp]⟩

section LastCycle

variable (hw : isWaitCycle (currentInput s) g s = false) (hlast : s.rtcm.rtCnt + 1 = s.cfg.i2cHCyc)
include hw hlast

/-- The last counted cycle ends the segment (R183). -/
theorem BusCycle.writes_segmentEnd : Writes s t (segmentEnd k g (sdaIn (currentInput s) s)) := by
  obtain ⟨m, hm, hcmd, hrtcm⟩ := h.writes_segmentCycle
  rw [segmentCycle, if_neg (by simp [hw]), if_neg (by omega)] at hcmd hrtcm
  exact ⟨m, hm, hcmd, hrtcm⟩

/-- A 0 sampled where arbitration is checked ends the command (R185, R186, R188). -/
theorem BusCycle.losesArbitration (hend : g.atEnd = .arbitrate) (hsda : sdaIn (currentInput s) s = false) :
    Writes s t (busFail { phase := g.phase, code := .arbLost }) := by
  obtain ⟨m, hm, hcmd, hrtcm⟩ := h.writes_segmentEnd hw hlast
  rw [segmentEnd_eq, if_pos ⟨hend, hsda⟩] at hcmd hrtcm
  exact ⟨m, hm, hcmd, hrtcm⟩

/-- Otherwise RTCM goes on with the sample taken. -/
theorem BusCycle.writes_goSegment (hwon : ¬(g.atEnd = .arbitrate ∧ sdaIn (currentInput s) s = false)) :
    Writes s t fun m => goSegment (nextIndex s k g (sdaIn (currentInput s) s))
      { m with rtcm := sampled g (sdaIn (currentInput s) s) s.rtcm } := by
  obtain ⟨m, hm, hcmd, hrtcm⟩ := h.writes_segmentEnd hw hlast
  rw [segmentEnd_eq, if_neg hwon, nextIndex, hm.stopIndex, hm.rtcm, ← nextIndex] at hcmd hrtcm
  exact ⟨m, hm, hcmd, hrtcm⟩

/-- Inside the list the next segment is entered, with its own drives (R183). -/
theorem BusCycle.enters (hwon : ¬(g.atEnd = .arbitrate ∧ sdaIn (currentInput s) s = false)) {j : Nat} {g' : Segment}
    (hj : nextIndex s k g (sdaIn (currentInput s) s) = j) (hg' : (segments s)[j]? = some g') :
    t.rtcm = enterSegment j g' (sampled g (sdaIn (currentInput s) s) s.rtcm) ∧ t.cmd.curOp = s.cmd.curOp := by
  obtain ⟨m, hm, hcmd, hrtcm⟩ := h.writes_goSegment hw hlast hwon
  have hsegs : (segments { m with rtcm := sampled g (sdaIn (currentInput s) s) s.rtcm })[j]? = some g' := by
    rw [segments_congr s { m with rtcm := sampled g (sdaIn (currentInput s) s) s.rtcm } hm.curOp
      (keepsRegs_sampled g _ _).held, hg']
  simp only [goSegment, hj, hsegs] at hcmd hrtcm
  exact ⟨hrtcm, by rw [hcmd, hm.curOp]⟩

/-- After the list the sequence ends; its last segment samples nothing (R187, R203, R207). -/
theorem BusCycle.finishes (hk : k + 1 = (segments s).length) : Writes s t sequenceEnd := by
  have hend : g.atEnd = .nothing := by
    by_contra hne
    exact absurd (succ_lt_length_of_atEnd h.mem hne) (by omega)
  obtain ⟨m, hm, hcmd, hrtcm⟩ := h.writes_goSegment hw hlast (by simp [hend])
  have hself : ({ m with rtcm := sampled g (sdaIn (currentInput s) s) s.rtcm } : State) = m := by
    rw [sampled_of_nothing hend, ← hm.rtcm]
  have hnext : nextIndex s k g (sdaIn (currentInput s) s) = k + 1 := by
    rw [nextIndex, nacked_of_ne (by simp [hend]), if_neg (by simp)]
  simp only [hnext, hself, goSegment_of_le (t := m) (k := k + 1) (by rw [hm.segments, hk])] at hcmd hrtcm
  exact ⟨m, hm, hcmd, hrtcm⟩

end LastCycle

end Cycle

/-! ## The ends of a command, as the host sees them -/

/-- A bus error ends the command with RTCRAW and TIME as they were (spec/60_exceptions.md R265). -/
theorem Writes.endsWithError {s t : State} {e : BusError} (h : Writes s t (busFail e)) :
    EndsWithError s t e ∧ t.rtcm.rtcRaw = s.rtcm.rtcRaw := by
  obtain ⟨m, hm, hcmd, hrtcm⟩ := h
  simp [EndsWithError, hcmd, hrtcm, hm.curOp, hm.rtcm]

/-- A bus error with the bytes received ends the command with RTCRAW taking them (spec/43_rtc.md R204). -/
theorem Writes.endsWithError_raw {s t : State} {e : BusError} (h : Writes s t fun m => busFail e (storeRaw m)) :
    EndsWithError s t e ∧ t.rtcm.rtcRaw = rxRaw s.rtcm.rtRx := by
  obtain ⟨m, hm, hcmd, hrtcm⟩ := h
  simp [EndsWithError, hcmd, hrtcm, hm.curOp, hm.rtcm]

/-- A timeout reports the NACK whose recovery it ends, if it ends one (R195). -/
theorem Writes.timesOut_of_pending {s t : State} {k : Nat} {g : Segment} {e : BusError}
    (h : Writes s t (stretchTimeout k g)) (he : s.rtcm.rtErr = some e) : Writes s t (busFail e) := by
  obtain ⟨m, hm, hcmd, hrtcm⟩ := h
  simp only [stretchTimeout, hm.rtcm, he] at hcmd hrtcm
  exact ⟨m, hm, hcmd, hrtcm⟩

/-- A timeout after the bytes came is one in the final STOP of RTCRD (R204). -/
theorem Writes.timesOut {s t : State} {k : Nat} {g : Segment} (h : Writes s t (stretchTimeout k g))
    (he : s.rtcm.rtErr = none) :
    EndsWithError s t { phase := g.phase, code := .timeout } ∧
      t.rtcm.rtcRaw = if s.cmd.curOp = .rtcrd ∧ stopIndex s ≤ k then rxRaw s.rtcm.rtRx else s.rtcm.rtcRaw := by
  obtain ⟨m, hm, hcmd, hrtcm⟩ := h
  simp only [stretchTimeout, hm.rtcm, he, hm.curOp, hm.stopIndex] at hcmd hrtcm
  split_ifs at hcmd hrtcm ⊢
  · exact Writes.endsWithError_raw ⟨m, hm, hcmd, hrtcm⟩
  · exact Writes.endsWithError ⟨m, hm, hcmd, hrtcm⟩

/-- The end of the list reports the NACK whose recovery it is (R195). -/
theorem Writes.sequenceEnd_of_pending {s t : State} {e : BusError} (h : Writes s t sequenceEnd)
    (he : s.rtcm.rtErr = some e) : Writes s t (busFail e) := by
  obtain ⟨m, hm, hcmd, hrtcm⟩ := h
  simp only [sequenceEnd, hm.rtcm, he] at hcmd hrtcm
  exact ⟨m, hm, hcmd, hrtcm⟩

/-- RTCM in the first cycle of a segment, as the rules ask for it (R183). -/
theorem entersSegment_of_rtcm {s t : State} {j : Nat} {g : Segment} {r : RtcmUnit} (hg : (segments s)[j]? = some g)
    (hr : t.rtcm = enterSegment j g r) (hop : t.cmd.curOp = s.cmd.curOp) : EntersSegment s t j := by
  refine ⟨g, hg, ?_, ?_, ?_, ?_, ?_, hop⟩ <;> rw [hr] <;> rfl

/-! ## The obligations on one cycle -/

/-- Settles O29: a wait cycle counts or times out, and the final STOP of RTCRD begins with segment 113. -/
theorem stretchWaitsThenTimesOut : Obligations.StretchWaitsThenTimesOut := by
  unfold Obligations.StretchWaitsThenTimesOut
  rintro _ s t k g hs rfl hrst ⟨hk, hg, hw⟩ hstep
  have h : BusCycle s t k g := ⟨hs, hrst, hk, hg, hstep⟩
  refine ⟨h.waits hw, fun hmax he => ?_, fun e hmax he => ?_⟩
  · obtain ⟨hfail, hraw⟩ := (h.timesOut hw hmax).timesOut he
    refine ⟨hfail, hraw.trans ?_⟩
    rw [← rxRaw_eq_append]
    by_cases hop : s.cmd.curOp = .rtcrd
    · rw [stopIndex_of_rtcrd hop]
    · simp [hop]
  · exact ((h.timesOut hw hmax).timesOut_of_pending he).endsWithError

/-- Shifting a sample in doubles the byte and adds the bit. -/
theorem shiftIn_toNat (x : Byte) (b : Bool) : (shiftIn x b).toNat = (2 * x.toNat + b.toNat) % 256 := by
  have hor : shiftIn x b = (x <<< 1) + (BitVec.ofBool b).setWidth 8 := by
    refine (BitVec.add_eq_or_of_and_eq_zero _ _ ?_).symm
    ext k hk
    interval_cases k <;> simp
  rw [hor]
  cases b <;> simp [Nat.shiftLeft_eq, Nat.mul_comm]

/-- Settles O30: a counted cycle counts; at a segment's end the next is entered with the sample taken, and no byte to send is
loaded where one is being received. -/
theorem segmentsFollowOneAnother : Obligations.SegmentsFollowOneAnother := by
  unfold Obligations.SegmentsFollowOneAnother
  rintro _ s t k g hs rfl hrst hk hg hw hstep
  have h : BusCycle s t k g := ⟨hs, hrst, hk, hg, hstep⟩
  have next (hlast : s.rtcm.rtCnt + 1 = s.cfg.i2cHCyc) (hlt : k + 1 < (segments s).length)
      (hplain : g.atEnd ≠ .arbitrate) (hack : ∀ code, g.atEnd ≠ .acknowledge code) :
      ∃ g', (segments s)[k + 1]? = some g' ∧ EntersSegment s t (k + 1) ∧
        t.rtcm = enterSegment (k + 1) g' (sampled g (sdaIn (currentInput s) s) s.rtcm) := by
    have hg' := List.getElem?_eq_getElem hlt
    have hnext : nextIndex s k g (sdaIn (currentInput s) s) = k + 1 := by
      rw [nextIndex, nacked_of_ne hack, if_neg (by simp)]
    obtain ⟨hrtcm, hop⟩ := h.enters hw hlast (fun hlost => hplain hlost.1) hnext hg'
    exact ⟨_, hg', entersSegment_of_rtcm hg' hrtcm hop, hrtcm⟩
  refine ⟨h.counts hw, fun hlast => ⟨fun hend hlt => ?nothing, fun hend => ?dataBit, fun j hend => ?store⟩⟩
  case nothing =>
    obtain ⟨g', _, henters, hrtcm⟩ := next hlast hlt (by simp [hend]) (by simp [hend])
    exact ⟨henters, by rw [hrtcm, sampled_of_nothing hend, enterSegment_rtRx]⟩
  case dataBit =>
    obtain ⟨g', hg', henters, hrtcm⟩ :=
      next hlast (succ_lt_length_of_atEnd hg (by simp [hend])) (by simp [hend]) (by simp [hend])
    refine ⟨henters, by simp [hrtcm, sampled, hend], ?_⟩
    rw [hrtcm, enterSegment_rtShift, load_after_dataBit hg hend hg', Option.getD_none, sampled, hend]
    exact shiftIn_toNat _ _
  case store =>
    obtain ⟨g', _, henters, hrtcm⟩ :=
      next hlast (succ_lt_length_of_atEnd hg (by simp [hend])) (by simp [hend]) (by simp [hend])
    exact ⟨henters, by simp [hrtcm, sampled, hend]⟩

/-- Settles O31: the sample of an arbitrating segment decides between the end and the next segment, which there is. -/
theorem arbitrationLossEndsTheCommand : Obligations.ArbitrationLossEndsTheCommand := by
  unfold Obligations.ArbitrationLossEndsTheCommand
  rintro _ s t k g hs rfl hrst ⟨hk, hg, hw, hlast⟩ hend hstep
  have h : BusCycle s t k g := ⟨hs, hrst, hk, hg, hstep⟩
  refine ⟨fun hsda => (h.losesArbitration hw hlast hend hsda).endsWithError, fun hsda => ?_⟩
  have hg' := List.getElem?_eq_getElem (succ_lt_length_of_atEnd hg (by simp [hend]))
  have hnext : nextIndex s k g (sdaIn (currentInput s) s) = k + 1 := by
    rw [nextIndex, nacked_of_ne (by simp [hend]), if_neg (by simp)]
  obtain ⟨hrtcm, hop⟩ := h.enters hw hlast (by simp [hsda]) hnext hg'
  exact entersSegment_of_rtcm hg' hrtcm hop

/-- A NACK is recovered only in STOP (R195). -/
theorem BusCycle.rtErr_of_lt_stopIndex {s t : State} {k : Nat} {g : Segment} (h : BusCycle s t k g)
    (hk : k < stopIndex s) : s.rtcm.rtErr = none := by
  obtain ⟨_, _, hseg, _⟩ := h.inv.rtcmOk
  obtain ⟨_, _, _, hstop⟩ := (segmentOk_iff s k g h.seg h.mem).1 hseg
  by_contra hne
  exact absurd (hstop hne) (by omega)

/-- STOP's first segment drives both lines low (R187). -/
theorem exists_stop_segment {s : State} (h : isRtcOp s.cmd.curOp = true) :
    ∃ ph, (segments s)[stopIndex s]? = some (lowSeg ph true) := by
  obtain ⟨ph, hstop⟩ := getElem?_stopIndex_add h
  exact ⟨ph, hstop 0⟩

/-- Settles O32: an acknowledge comes before STOP, so no NACK is kept yet; a 1 keeps this one and enters STOP, and the end of
the list reports it. -/
theorem nackSendsStopThenReports : Obligations.NackSendsStopThenReports := by
  unfold Obligations.NackSendsStopThenReports
  rintro _ s t k g hs rfl hrst ⟨hk, hg, hw, hlast⟩ hstep
  have h : BusCycle s t k g := ⟨hs, hrst, hk, hg, hstep⟩
  refine ⟨fun code hend hsda => ?nack, fun code hend hsda => ?ack, fun e he hlen => ?reported⟩
  case nack =>
    obtain ⟨ph, hstop⟩ := exists_stop_segment h.isRtcOp
    have hnext : nextIndex s k g (sdaIn (currentInput s) s) = stopIndex s := by simp [nextIndex, nacked, hend, hsda]
    obtain ⟨hrtcm, hop⟩ := h.enters hw hlast (by simp [hend]) hnext hstop
    refine ⟨entersSegment_of_rtcm hstop hrtcm hop, ?_, ?_, ?_⟩ <;> rw [hrtcm]
    · rfl
    · rfl
    · simp [sampled, hend, hsda]
  case ack =>
    have hg' := List.getElem?_eq_getElem (succ_lt_length_of_atEnd hg (by simp [hend]))
    have hnext : nextIndex s k g (sdaIn (currentInput s) s) = k + 1 := by simp [nextIndex, nacked, hend, hsda]
    obtain ⟨hrtcm, hop⟩ := h.enters hw hlast (by simp [hend]) hnext hg'
    refine ⟨entersSegment_of_rtcm hg' hrtcm hop, ?_⟩
    have hnone := h.rtErr_of_lt_stopIndex (lt_stopIndex_of_atEnd h.isRtcOp hg (by simp [hend]))
    simp [hrtcm, sampled, hend, hsda, hnone]
  case reported => exact ((h.finishes hw hlast hlen).sequenceEnd_of_pending he).endsWithError

/-! ## Going on, or ending -/

/-- RTCM after a cycle of segment `k` that leaves the command executing. -/
inductive Advances (s : State) (k : Nat) : RtcmUnit → Prop where
  /-- It waits. -/
  | waits (h : s.rtcm.rtWait + 1 < s.cfg.stretchMax) : Advances s k { s.rtcm with rtWait := s.rtcm.rtWait + 1 }
  /-- It counts. -/
  | counts (h : s.rtcm.rtCnt + 1 < s.cfg.i2cHCyc) : Advances s k { s.rtcm with rtCnt := s.rtcm.rtCnt + 1 }
  /-- It enters a later segment of the list. -/
  | enters (j : Nat) (g : Segment) (r : RtcmUnit) (hkj : k < j) (hj : j < (segments s).length)
      (hr : KeepsRegs s.rtcm r) : Advances s k (enterSegment j g r)

theorem Advances.keepsRegs {s : State} {k : Nat} {r : RtcmUnit} (h : Advances s k r) : KeepsRegs s.rtcm r := by
  cases h with
  | waits | counts => exact ⟨rfl, rfl, rfl, rfl, rfl, rfl, rfl⟩
  | enters j g r _ _ hr => exact ⟨hr.time, hr.rtcRaw, hr.busErr, hr.busPhase, hr.busCode, hr.secChg, hr.held⟩

theorem stretchTimeout_completes (k : Nat) (g : Segment) (m : State) :
    (stretchTimeout k g m).cmd.curOp = .none ∧ (stretchTimeout k g m).cmd.done = true := by
  unfold stretchTimeout
  split <;> exact ⟨rfl, rfl⟩

theorem sequenceEnd_completes (m : State) : (sequenceEnd m).cmd.curOp = .none ∧ (sequenceEnd m).cmd.done = true := by
  unfold sequenceEnd
  split
  · exact ⟨rfl, rfl⟩
  · split_ifs <;> exact ⟨rfl, rfl⟩

/-- What a write that completes the command makes of the command processor. -/
theorem Writes.completes {s t : State} {f : State → State} (h : Writes s t f)
    (hf : ∀ m, (f m).cmd.curOp = .none ∧ (f m).cmd.done = true) : t.cmd.curOp = .none ∧ t.cmd.done = true := by
  obtain ⟨m, _, hcmd, _⟩ := h
  rw [hcmd]
  exact hf m

/-- A cycle of an RTC command ends it, or leaves it executing and RTCM further on. -/
theorem BusCycle.ends_or_advances {s t : State} {k : Nat} {g : Segment} (h : BusCycle s t k g) :
    (t.cmd.curOp = .none ∧ t.cmd.done = true) ∨ (t.cmd.curOp = s.cmd.curOp ∧ Advances s k t.rtcm) := by
  obtain ⟨_, _, _, hcnt, hwait, _⟩ := h.inv.rtcmOk
  obtain ⟨hklt, _⟩ := List.getElem?_eq_some_iff.1 h.mem
  cases hw : isWaitCycle (currentInput s) g s with
  | true =>
    rcases Nat.lt_or_ge (s.rtcm.rtWait + 1) s.cfg.stretchMax with hlt | hge
    · obtain ⟨hrtcm, hop⟩ := h.waits hw hlt
      exact .inr ⟨hop, hrtcm ▸ .waits hlt⟩
    · exact .inl ((h.timesOut hw (by omega)).completes (stretchTimeout_completes k g))
  | false =>
    rcases Nat.lt_or_ge (s.rtcm.rtCnt + 1) s.cfg.i2cHCyc with hlt | hge
    · obtain ⟨hrtcm, hop⟩ := h.counts hw hlt
      exact .inr ⟨hop, hrtcm ▸ .counts hlt⟩
    have hlast : s.rtcm.rtCnt + 1 = s.cfg.i2cHCyc := by omega
    by_cases hlost : g.atEnd = .arbitrate ∧ sdaIn (currentInput s) s = false
    · exact .inl ((h.losesArbitration hw hlast hlost.1 hlost.2).completes fun _ => ⟨rfl, rfl⟩)
    by_cases hend : k + 1 = (segments s).length
    · exact .inl ((h.finishes hw hlast hend).completes sequenceEnd_completes)
    have hkj : k < nextIndex s k g (sdaIn (currentInput s) s) := by
      unfold nextIndex
      split_ifs with hnack
      · refine lt_stopIndex_of_atEnd h.isRtcOp h.mem fun hnothing => ?_
        simp [nacked, hnothing] at hnack
      · exact Nat.lt_succ_self k
    have hj : nextIndex s k g (sdaIn (currentInput s) s) < (segments s).length := by
      unfold nextIndex
      split_ifs
      · exact stopIndex_lt_length h.mem
      · omega
    obtain ⟨hrtcm, hop⟩ := h.enters hw hlast hlost rfl (List.getElem?_eq_getElem hj)
    exact .inr ⟨hop, hrtcm ▸ .enters _ _ _ hkj hj (keepsRegs_sampled g _ _)⟩

/-- A cycle from a state with an RTC command executing is a cycle of some segment. -/
theorem exists_busCycle {s t : State} (hs : s.Inv) (hop : isRtcOp s.cmd.curOp = true)
    (hrst : (currentInput s).rst = false) (h : step s = .next t) : ∃ k g, BusCycle s t k g := by
  obtain ⟨k, g, hk, hg⟩ := exists_segment_of_rtc hs.rtcmOk hop
  exact ⟨k, g, hs, hrst, hk, hg, h⟩

/-! ## The registers RTCM writes -/

/-- Without an RTC command RTCM is as the host's access leaves it (R182). -/
theorem step_rtcm_of_not_rtc {s t : State} (hs : s.Inv) (hop : isRtcOp s.cmd.curOp = false)
    (hrst : (currentInput s).rst = false) (h : step s = .next t) :
    ∃ m, HostWrites (currentInput s) s m ∧ t.rtcm = m.rtcm := by
  obtain ⟨hpix, _⟩ := params_positive hs.cfgOk
  rcases step_cases s t h with ⟨hrst', _⟩ | ⟨_, m, level, hm, _, rfl⟩
  · simp [hrst] at hrst'
  · exact ⟨m, hostAccess_hostWrites hrst hpix hm, by simp [engines_of_not_rtc _ s m hs.rtcmOk hop]⟩

/-- No access writes TIME (spec/10_state.md R27). -/
theorem HostWrites.time {i : CycleIn} {s m : State} (h : HostWrites i s m) : m.rtcm.time = s.rtcm.time := by
  cases h with
  | elsewhere | rejects => rfl
  | accepts _ c _ _ ht => cases ht <;> rfl

/-- Only the acceptance of an RTC command writes RTCM. -/
theorem HostWrites.rtcm {i : CycleIn} {s m : State} (h : HostWrites i s m)
    (hc : ∀ c, Accepts i s c → longOp c ≠ .rtcrd ∧ longOp c ≠ .rtcwr) : m.rtcm = s.rtcm := by
  cases h with
  | elsewhere | rejects => rfl
  | accepts _ c hacc _ ht => exact ht.rtcm_of_not_rtc (hc c hacc).1 (hc c hacc).2

/-- A time read from valid bytes holds the decoded numbers in its fields (R199, R203). -/
theorem rxTime_toNat {x : RxBytes} (h : rxValid x = true) :
    (rxTime x).sec.toNat = bcdDec x.sec ∧ (rxTime x).min.toNat = bcdDec x.min ∧
      (rxTime x).hour.toNat = bcdDec x.hour := by
  simp only [rxValid, Bool.and_eq_true] at h
  obtain ⟨⟨hsec, hmin⟩, hhour⟩ := h
  have := bcdDec_le_of_valid _ _ hsec
  have := bcdDec_le_of_valid _ _ hmin
  have := bcdDec_le_of_valid _ _ hhour
  simp only [rxTime, BitVec.toNat_ofNat]
  omega

/-- Settles O40: no access writes TIME and a cycle that goes on keeps it, and of the ends of a command a successful read alone
writes it. -/
theorem onlyGoodReadsWriteTime : Obligations.OnlyGoodReadsWriteTime := by
  unfold Obligations.OnlyGoodReadsWriteTime
  intro s t hs hrst hstep hne
  cases hop : isRtcOp s.cmd.curOp with
  | false =>
    obtain ⟨m, hw, hrtcm⟩ := step_rtcm_of_not_rtc hs hop hrst hstep
    exact absurd (hrtcm ▸ hw.time) hne
  | true =>
    obtain ⟨k, g, hcycle⟩ := exists_busCycle hs hop hrst hstep
    rcases hcycle.ends_or_advances with ⟨hnone, _⟩ | ⟨_, hadv⟩
    · obtain ⟨_, m, u, _, hcur, hr, hout, hcmd, hrtcm⟩ := step_outcome_of_rtc hs hop hrst hstep
      rw [hrtcm] at hne ⊢
      rw [hcmd] at hnone ⊢
      cases hout with
      | runs r =>
        have hidle : s.cmd.curOp = .none := hcur.symm.trans hnone
        simp [hidle, isRtcOp] at hop
      | writes => exact absurd (by simp [hr]) hne
      | fails e => exact absurd (by split_ifs <;> simp [hr]) hne
      | reads hrd hvalid =>
        obtain ⟨hsec, hmin, hhour⟩ := rxTime_toNat (hr ▸ hvalid)
        exact ⟨hcur ▸ hrd, rfl, rfl, rfl, hr ▸ hvalid, by simp [hr, hsec], by simp [hr, hmin], by simp [hr, hhour]⟩
    · exact absurd hadv.keepsRegs.time hne

/-- Settles O42: a cycle that goes on keeps the fields, and without an RTC command only the acceptance of one writes RTCM. -/
theorem busErrorFieldsHold : Obligations.BusErrorFieldsHold := by
  unfold Obligations.BusErrorFieldsHold
  rintro _ s t hs rfl hrst hstep hacc hrun
  cases hop : isRtcOp s.cmd.curOp with
  | false =>
    obtain ⟨m, hw, hrtcm⟩ := step_rtcm_of_not_rtc hs hop hrst hstep
    rw [hrtcm, hw.rtcm hacc]
    exact ⟨rfl, rfl, rfl⟩
  | true =>
    have hcur := hrun (by simpa [isRtcOp] using hop)
    obtain ⟨k, g, hcycle⟩ := exists_busCycle hs hop hrst hstep
    rcases hcycle.ends_or_advances with ⟨hnone, _⟩ | ⟨_, hadv⟩
    · simp [← hcur, hnone, isRtcOp] at hop
    · exact ⟨hadv.keepsRegs.busErr, hadv.keepsRegs.busPhase, hadv.keepsRegs.busCode⟩

end Sys2Proof.Machine
end

section
/-! PROOFS. Every RTC command ends (spec/43_rtc.md R184, R208): the cycles left to a command never reach 0 before its end. -/

namespace Sys2Proof.Machine

/-- How many more cycles a command with a list of `len` segments can run: for each segment to come STRETCH_MAX to wait and
I2C_H_CYC to count, and what is left of both in this one. -/
def busBudget (p : Params) (len : Nat) (r : RtcmUnit) : Nat :=
  (len - 1 - r.rtSeg.getD 0) * (p.stretchMax + p.i2cHCyc) + ((p.stretchMax - r.rtWait) + (p.i2cHCyc - r.rtCnt))

/-- A cycle that goes on uses some of the budget. -/
theorem Advances.busBudget_lt {s : State} {k : Nat} {r : RtcmUnit} (h : Advances s k r) (hk : s.rtcm.rtSeg = some k)
    (hcnt : s.rtcm.rtCnt < s.cfg.i2cHCyc) (hwait : s.rtcm.rtWait < s.cfg.stretchMax) :
    busBudget s.cfg (segments s).length r < busBudget s.cfg (segments s).length s.rtcm := by
  simp only [busBudget, hk, Option.getD_some]
  cases h with
  | waits | counts =>
    simp only [hk, Option.getD_some]
    omega
  | enters j g r hkj hj _ =>
    simp only [enterSegment_rtSeg, enterSegment_rtWait, enterSegment_rtCnt, Option.getD_some]
    have hle : ((segments s).length - 1 - j + 1) * (s.cfg.stretchMax + s.cfg.i2cHCyc) ≤
        ((segments s).length - 1 - k) * (s.cfg.stretchMax + s.cfg.i2cHCyc) := Nat.mul_le_mul_right _ (by omega)
    rw [Nat.succ_mul] at hle
    omega

/-- The budget is never more than that of the longer list (R208). -/
theorem busBudget_le {s : State} : busBudget s.cfg (segments s).length s.rtcm ≤ 116 * (s.cfg.stretchMax + s.cfg.i2cHCyc) := by
  have hlen : (segments s).length ≤ 116 := by
    rw [segments_length]
    split_ifs <;> omega
  have hle : ((segments s).length - 1 - s.rtcm.rtSeg.getD 0 + 1) * (s.cfg.stretchMax + s.cfg.i2cHCyc) ≤
      116 * (s.cfg.stretchMax + s.cfg.i2cHCyc) := Nat.mul_le_mul_right _ (by omega)
  rw [Nat.succ_mul] at hle
  unfold busBudget
  omega

/-- After a cycle without reset the cycles that remain are without reset. -/
theorem NoResetFor.tail {n : Nat} {l : List CycleIn} (h : NoResetFor (n + 1) l) : NoResetFor n l.tail := by
  obtain ⟨hlen, hno⟩ := h
  cases l with
  | nil => simp at hlen
  | cons i l => exact ⟨by simpa using hlen, fun j hj => hno j (by simp [show j ∈ l.take n from hj])⟩

/-- A command ends within its budget, whatever the bus does. -/
theorem exists_runsTo_completed (n : Nat) {s : State} (hs : s.Inv) (hop : isRtcOp s.cmd.curOp = true)
    (hbudget : busBudget s.cfg (segments s).length s.rtcm ≤ n) (hno : NoResetFor n s.inputs) :
    ∃ j t, j ≤ n ∧ RunsTo j s t ∧ t.cmd.curOp = .none ∧ t.cmd.done = true := by
  induction n generalizing s with
  | zero =>
    obtain ⟨_, _, _, hcnt, _⟩ := hs.rtcmOk
    unfold busBudget at hbudget
    omega
  | succ n ih =>
    obtain ⟨t, hstep⟩ := step_answers hs
    have hrst : (currentInput s).rst = false := hno.currentInput_rst (n := 0) (Nat.succ_pos n) rfl
    obtain ⟨k, g, hcycle⟩ := exists_busCycle hs hop hrst hstep
    rcases hcycle.ends_or_advances with hend | ⟨hcur, hadv⟩
    · exact ⟨1, t, by omega, runsTo_succ_iff.2 ⟨t, hstep, rfl⟩, hend⟩
    · obtain ⟨_, _, _, hcnt, hwait, _⟩ := hs.rtcmOk
      have hlt := hadv.busBudget_lt hcycle.seg hcnt hwait
      have hsegs : segments t = segments s := segments_congr s t hcur hadv.keepsRegs.held
      obtain ⟨j, u, hj, hrun, hend⟩ := ih (step_inv s t hs hstep) (hcur ▸ hop)
        (by rw [step_cfg hstep, hsegs]; omega) (step_inputs hstep ▸ hno.tail)
      exact ⟨j + 1, u, by omega, runsTo_succ_iff.2 ⟨t, hstep, hrun⟩, hend⟩

/-- Settles O39: the budget of a command in any of its cycles is at most that of 116 whole segments. -/
theorem rtcCommandsEnd : Obligations.RtcCommandsEnd := by
  unfold Obligations.RtcCommandsEnd
  intro s hs hop hno
  exact exists_runsTo_completed _ hs (by simpa [isRtcOp] using hop) busBudget_le hno

end Sys2Proof.Machine
end

section
/-! PROOFS. Runs over whole segments (spec/43_rtc.md R183): with no stretching a segment takes I2C_H_CYC cycles, and the
samples of a device that follows a script decide what comes next. -/

namespace Sys2Proof.Machine

/-! ## One segment -/

/-- Runs follow one another. -/
theorem RunsTo.trans {m n : Nat} {s t u : State} (h : RunsTo m s t) (hu : RunsTo n t u) : RunsTo (m + n) s u := by
  induction m generalizing s with
  | zero =>
    cases h
    rwa [Nat.zero_add]
  | succ m ih =>
    obtain ⟨r, hr, hrun⟩ := runsTo_succ_iff.1 h
    rw [Nat.succ_add]
    exact runsTo_succ_iff.2 ⟨r, hr, ih hrun⟩

/-- The state of a block with the parameters, the operation, the inputs to come and the RTCM given. -/
structure BusAt (p : Params) (op : CurOp) (l : List CycleIn) (r : RtcmUnit) (u : State) : Prop where
  inv : u.Inv
  cfg : u.cfg = p
  curOp : u.cmd.curOp = op
  inputs : u.inputs = l
  rtcm : u.rtcm = r

/-- SDA in a segment: low if RTCM or another agent pulls it low (R181). -/
def sampleOf (g : Segment) (sdaLow : Bool) : Bool := !g.sdaLow && !sdaLow

/-- A released SCL alone meets the segment's wait condition, or SDA is high too (R183). -/
def ready (g : Segment) (sdaLow : Bool) : Bool := !g.waitSda || sampleOf g sdaLow

/-- The segment needs no wait and its sample is neither a lost arbitration nor a NACK. -/
def passes (g : Segment) (sdaLow : Bool) : Bool :=
  ready g sdaLow &&
    match g.atEnd with
    | .arbitrate => sampleOf g sdaLow
    | .acknowledge _ => !sampleOf g sdaLow
    | _ => true

theorem ready_of_passes {g : Segment} {b : Bool} (h : passes g b = true) : ready g b = true := by
  simp only [passes, Bool.and_eq_true] at h
  exact h.1

theorem not_lost_of_passes {g : Segment} {b : Bool} (h : passes g b = true) :
    ¬(g.atEnd = .arbitrate ∧ sampleOf g b = false) := by
  rintro ⟨hend, hlow⟩
  simp [passes, hend, hlow] at h

theorem nacked_of_passes {g : Segment} {b : Bool} (h : passes g b = true) : nacked g (sampleOf g b) = false := by
  unfold nacked
  split
  · rename_i code hend
    simpa [passes, hend] using (Bool.and_eq_true_iff.1 h).2
  · rfl

/-- The inputs of a segment of `n` cycles: no reset, no agent holds SCL low, SDA is pulled low or not. -/
abbrev SegmentInputs (n : Nat) (sdaLow : Bool) (l : List CycleIn) : Prop :=
  ∀ c < n, ∃ i, l[c]? = some i ∧ i.rst = false ∧ i.envSclLow = false ∧ i.envSdaLow = sdaLow

section Cycle

variable {s t : State} {k : Nat} {g : Segment} (h : BusCycle s t k g)
include h

/-- The drives are the segment's (R183). -/
theorem BusCycle.drives : s.rtcm.sclOe = !g.high ∧ s.rtcm.sdaOe = g.sdaLow := by
  obtain ⟨_, _, hseg, _⟩ := h.inv.rtcmOk
  obtain ⟨hscl, hsda, _⟩ := (segmentOk_iff s k g h.seg h.mem).1 hseg
  exact ⟨hscl, hsda⟩

theorem BusCycle.sdaIn_eq : sdaIn (currentInput s) s = sampleOf g (currentInput s).envSdaLow := by
  rw [sdaIn, h.drives.2, sampleOf]

/-- Where no other agent holds SCL low a segment that is ready does not wait. -/
theorem BusCycle.isWaitCycle_eq_false (hscl : (currentInput s).envSclLow = false)
    (hready : ready g (currentInput s).envSdaLow = true) : isWaitCycle (currentInput s) g s = false := by
  have hin : sclIn (currentInput s) s = g.high := by simp [sclIn, h.drives.1, hscl]
  have hholds : waitHolds (currentInput s) s g = g.high := by
    rw [waitHolds, hin, h.sdaIn_eq, ← ready, hready, Bool.and_true]
  cases hhigh : g.high <;> simp [isWaitCycle, hholds, hhigh]

end Cycle

/-- A segment's counter has no part in what the next is entered with. -/
theorem enterSegment_sampled_rtCnt (j : Nat) (g g' : Segment) (sample : Bool) (r : RtcmUnit) (c : Nat) :
    enterSegment j g' (sampled g sample { r with rtCnt := c }) = enterSegment j g' (sampled g sample r) := by
  unfold sampled
  cases g.atEnd with
  | acknowledge => cases sample <;> rfl
  | _ => rfl

section Segment

variable {p : Params} {op : CurOp} {l : List CycleIn} {r : RtcmUnit} {u : State} {k : Nat} {g : Segment} {b : Bool}

/-- RTCM in segment `k` of its list, whatever the counters. -/
theorem BusAt.mem_segments (hu : BusAt p op l r u) (hg : (segmentsOf op r.held)[k]? = some g) :
    (segments u)[k]? = some g := by
  rw [segments, hu.curOp, hu.rtcm, hg]

theorem BusAt.currentInput_eq (hu : BusAt p op l r u) {c : Nat} {l' : List CycleIn} (hl : l = l'.drop c) {i : CycleIn}
    (hi : l'[c]? = some i) : currentInput u = i := by
  obtain ⟨hlt, hget⟩ := List.getElem?_eq_some_iff.1 hi
  rw [currentInput, hu.inputs, hl, List.drop_eq_getElem_cons hlt, hget]

variable (hu : BusAt p op l r u) (hseg : r.rtSeg = some k) (hcnt : r.rtCnt = 0)
  (hg : (segmentsOf op r.held)[k]? = some g) (hin : SegmentInputs p.i2cHCyc b l) (hready : ready g b = true)
include hu hseg hcnt hg hin hready

/-- RTCM counts through the cycles of a segment. -/
theorem BusAt.runsTo_cycle {c : Nat} (hc : c < p.i2cHCyc) :
    ∃ v, RunsTo c u v ∧ BusAt p op (l.drop c) { r with rtCnt := c } v := by
  induction c with
  | zero =>
    have hself : ({ r with rtCnt := 0 } : RtcmUnit) = r := by rw [← hcnt]
    exact ⟨u, rfl, by rwa [hself, List.drop_zero]⟩
  | succ c ih =>
    obtain ⟨v, hrun, hv⟩ := ih (by omega)
    obtain ⟨i, hi, hrst, hscl, hsda⟩ := hin c (by omega)
    have hcur := hv.currentInput_eq rfl hi
    obtain ⟨w, hw⟩ := step_answers hv.inv
    have hcycle : BusCycle v w k g := ⟨hv.inv, hcur ▸ hrst, by rw [hv.rtcm]; exact hseg, hv.mem_segments hg, hw⟩
    have hnowait := hcycle.isWaitCycle_eq_false (hcur ▸ hscl) (by rwa [hcur, hsda])
    obtain ⟨hrtcm, hop⟩ := hcycle.counts hnowait (by rw [hv.rtcm, hv.cfg]; exact hc)
    exact ⟨w, hrun.succ hw, {
      inv := step_inv v w hv.inv hw
      cfg := (step_cfg hw).trans hv.cfg
      curOp := hop.trans hv.curOp
      inputs := by rw [step_inputs hw, hv.inputs, List.tail_drop]
      rtcm := by rw [hrtcm, hv.rtcm] }⟩

/-- The last cycle of a segment, its sample, and the run through it. -/
theorem BusAt.exists_last_cycle :
    ∃ v w, RunsTo p.i2cHCyc u w ∧ BusAt p op (l.drop (p.i2cHCyc - 1)) { r with rtCnt := p.i2cHCyc - 1 } v ∧
      BusCycle v w k g ∧ isWaitCycle (currentInput v) g v = false ∧ v.rtcm.rtCnt + 1 = v.cfg.i2cHCyc ∧
      sdaIn (currentInput v) v = sampleOf g b ∧ w.inputs = l.drop p.i2cHCyc := by
  obtain ⟨_, _, _, hpos, _⟩ := params_positive (hu.cfg ▸ hu.inv.cfgOk)
  obtain ⟨n, hn⟩ := Nat.exists_eq_add_one.2 hpos
  obtain ⟨v, hrun, hv⟩ := hu.runsTo_cycle hseg hcnt hg hin hready (c := n) (by omega)
  obtain ⟨i, hi, hrst, hscl, hsda⟩ := hin n (by omega)
  have hcur := hv.currentInput_eq rfl hi
  obtain ⟨w, hw⟩ := step_answers hv.inv
  have hcycle : BusCycle v w k g := ⟨hv.inv, hcur ▸ hrst, by rw [hv.rtcm]; exact hseg, hv.mem_segments hg, hw⟩
  rw [hn, Nat.add_sub_cancel]
  refine ⟨v, w, hrun.succ hw, hv, hcycle, hcycle.isWaitCycle_eq_false (hcur ▸ hscl) (by rwa [hcur, hsda]), ?_, ?_, ?_⟩
  · rw [hv.rtcm, hv.cfg, hn]
  · rw [hcycle.sdaIn_eq, hcur, hsda]
  · rw [step_inputs hw, hv.inputs, List.tail_drop]

/-- A segment whose sample is no lost arbitration leads to another of the list. -/
theorem BusAt.runsTo_next (hwon : ¬(g.atEnd = .arbitrate ∧ sampleOf g b = false)) {j : Nat} {g' : Segment}
    (hj : nextIndex u k g (sampleOf g b) = j) (hg' : (segmentsOf op r.held)[j]? = some g') :
    ∃ w, RunsTo p.i2cHCyc u w ∧
      BusAt p op (l.drop p.i2cHCyc) (enterSegment j g' (sampled g (sampleOf g b) r)) w := by
  obtain ⟨v, w, hrun, hv, hcycle, hnowait, hlast, hsample, hinputs⟩ :=
    hu.exists_last_cycle hseg hcnt hg hin hready
  have hsegs : segments v = segments u := segments_congr u v (hv.curOp.trans hu.curOp.symm) (by rw [hv.rtcm, hu.rtcm])
  have hnext : nextIndex v k g (sdaIn (currentInput v) v) = j := by
    rw [hsample, ← hj, nextIndex, nextIndex, stopIndex, stopIndex, hsegs]
  obtain ⟨hrtcm, hop⟩ := hcycle.enters hnowait hlast (by rwa [hsample]) hnext (hv.mem_segments hg')
  exact ⟨w, hrun, {
    inv := step_inv v w hv.inv hcycle.step
    cfg := (step_cfg hcycle.step).trans hv.cfg
    curOp := hop.trans hv.curOp
    inputs := hinputs
    rtcm := by rw [hrtcm, hsample, hv.rtcm, enterSegment_sampled_rtCnt] }⟩

/-- The last segment of the list leads to the end of the sequence. -/
theorem BusAt.runsTo_sequenceEnd (hk : k + 1 = (segmentsOf op r.held).length) :
    ∃ v w, RunsTo p.i2cHCyc u w ∧ BusAt p op (l.drop (p.i2cHCyc - 1)) { r with rtCnt := p.i2cHCyc - 1 } v ∧
      Writes v w sequenceEnd := by
  obtain ⟨v, w, hrun, hv, hcycle, hnowait, hlast, -, -⟩ := hu.exists_last_cycle hseg hcnt hg hin hready
  exact ⟨v, w, hrun, hv, hcycle.finishes hnowait hlast (by rw [segments, hv.curOp, hv.rtcm, hk])⟩

end Segment

/-! ## What a list of segments receives -/

/-- RTCM's shift register and received bytes. -/
abbrev RxData := Byte × RxBytes

/-- RTCM with this shift register and these bytes. -/
def RtcmUnit.withData (r : RtcmUnit) (d : RxData) : RtcmUnit := { r with rtShift := d.1, rtRx := d.2 }

/-- What a segment, with SDA pulled low or not, makes of them (R190 to R193). -/
def receive (d : RxData) (q : Segment × Bool) : RxData :=
  match q.1.atEnd with
  | .dataBit => (shiftIn (q.1.load.getD d.1) (sampleOf q.1 q.2), d.2)
  | .store j => (q.1.load.getD d.1, storeByte j (q.1.load.getD d.1) d.2)
  | _ => (q.1.load.getD d.1, d.2)

/-- A segment that passes leads to the next with its own part of the data taken, and nothing else changed. -/
theorem enterSegment_sampled_of_passes {g : Segment} {b : Bool} (h : passes g b = true) (j k : Nat) (g' : Segment)
    (r : RtcmUnit) (d : RxData) :
    enterSegment j g' (sampled g (sampleOf g b) (enterSegment k g (r.withData d))) =
      enterSegment j g' (r.withData (receive d (g, b))) := by
  unfold sampled receive
  cases hend : g.atEnd with
  | acknowledge code =>
    have hack : sampleOf g b = false := by
      simpa [passes, hend] using (Bool.and_eq_true_iff.1 h).2
    rw [hack]
    rfl
  | _ => rfl

/-- Segments that take nothing leave the bytes alone. -/
theorem foldl_receive_snd {l : List (Segment × Bool)} (h : ∀ q ∈ l, receivesNothing q.1 = true) (d : RxData) :
    (l.foldl receive d).2 = d.2 := by
  induction l generalizing d with
  | nil => rfl
  | cons q l ih =>
    rw [List.foldl_cons, ih fun x hx => h x (List.mem_cons_of_mem q hx)]
    have hq := h q List.mem_cons_self
    unfold receivesNothing at hq
    unfold receive
    cases hend : q.1.atEnd with
    | dataBit | store => simp [hend] at hq
    | _ => rfl

/-! ## A run along a list of segments -/

/-- RTCM enters segment `k`, and for the cycles of the script the other agents follow it. -/
structure OnLeg (p : Params) (op : CurOp) (l : List CycleIn) (k : Nat) (r : RtcmUnit) (script : List Bool) (u : State) :
    Prop where
  enters : ∃ g, (segmentsOf op r.held)[k]? = some g ∧ BusAt p op l (enterSegment k g r) u
  follows : FollowsScript p.i2cHCyc script l

/-- The segments from `k` on with the script's entries. -/
def legPath (op : CurOp) (r : RtcmUnit) (k : Nat) (script : List Bool) : List (Segment × Bool) :=
  ((segmentsOf op r.held).drop k).zip script

theorem legPath_getElem? {op : CurOp} {r : RtcmUnit} {k j : Nat} {script : List Bool} {g : Segment} {b : Bool}
    (h : (legPath op r k script)[j]? = some (g, b)) :
    (segmentsOf op r.held)[k + j]? = some g ∧ script[j]? = some b := by
  rw [legPath, List.getElem?_zip_eq_some, List.getElem?_drop] at h
  exact h

/-- The inputs of a script's entry. -/
theorem FollowsScript.segmentInputs {n j : Nat} {script : List Bool} {l : List CycleIn} {b : Bool}
    (h : FollowsScript n script l) (hb : script[j]? = some b) : SegmentInputs n b (l.drop (j * n)) := by
  obtain ⟨hlen, hscript⟩ := h
  intro c hc
  obtain ⟨hj, _⟩ := List.getElem?_eq_some_iff.1 hb
  have hlt : j * n + c < n * script.length := by
    rw [Nat.mul_comm n]
    exact bitCycle_lt hj hc
  have hdiv : (j * n + c) / n = j := by
    rw [Nat.mul_comm, Nat.mul_add_div (by omega), Nat.div_eq_of_lt hc, Nat.add_zero]
  have hget := List.getElem?_eq_getElem (l := l) (i := j * n + c) (by omega)
  obtain ⟨hrst, hscl, hsda⟩ := hscript (j * n + c) hlt _ hget
  rw [hdiv, hb] at hsda
  exact ⟨_, by rw [List.getElem?_drop, hget], hrst, hscl, (Option.some.inj hsda).symm⟩

/-- What remains of a script. -/
theorem FollowsScript.drop {n : Nat} {script : List Bool} {l : List CycleIn} (h : FollowsScript n script l) (j : Nat)
    (hj : j ≤ script.length) : FollowsScript n (script.drop j) (l.drop (j * n)) := by
  obtain ⟨hlen, hscript⟩ := h
  have hmul : n * script.length = j * n + n * (script.drop j).length := by
    rw [List.length_drop, Nat.mul_comm j, ← Nat.mul_add, Nat.add_sub_cancel' hj]
  refine ⟨by rw [List.length_drop (l := l)]; omega, fun m hm i hi => ?_⟩
  obtain ⟨hrst, hscl, hsda⟩ := hscript (j * n + m) (by omega) i (by rwa [Option.mem_def, ← List.getElem?_drop])
  have hpos : 0 < n := Nat.pos_of_ne_zero (by rintro rfl; simp at hm)
  rw [Nat.mul_comm, Nat.mul_add_div hpos] at hsda
  exact ⟨hrst, hscl, by rwa [List.getElem?_drop]⟩

section Leg

variable {p : Params} {op : CurOp} {l : List CycleIn} {k : Nat} {r : RtcmUnit} {script : List Bool} {u : State}
  (h : OnLeg p op l k r script u)

/-- RTCM with the data received in the first `j` segments of the leg. -/
def legUnit (op : CurOp) (r : RtcmUnit) (k : Nat) (script : List Bool) (j : Nat) : RtcmUnit :=
  r.withData (((legPath op r k script).take j).foldl receive (r.rtShift, r.rtRx))

include h

/-- RTCM reaches segment `k + j` after `j` segments that pass. -/
theorem OnLeg.runsTo_segment {j : Nat} (hpass : ∀ q ∈ (legPath op r k script).take j, passes q.1 q.2 = true) {g : Segment}
    {b : Bool} (hq : (legPath op r k script)[j]? = some (g, b)) :
    ∃ v, RunsTo (j * p.i2cHCyc) u v ∧
      BusAt p op (l.drop (j * p.i2cHCyc)) (enterSegment (k + j) g (legUnit op r k script j)) v := by
  induction j generalizing g b with
  | zero =>
    obtain ⟨g₀, hg₀, hu⟩ := h.enters
    cases hg₀.symm.trans (legPath_getElem? hq).1
    refine ⟨u, by rw [Nat.zero_mul]; rfl, ?_⟩
    rw [Nat.zero_mul, List.drop_zero]
    exact hu
  | succ j ih =>
    have hj : j < (legPath op r k script).length := by
      obtain ⟨hlt, _⟩ := List.getElem?_eq_some_iff.1 hq
      omega
    obtain ⟨⟨g₁, b₁⟩, hq₁⟩ : ∃ q, (legPath op r k script)[j]? = some q := ⟨_, List.getElem?_eq_getElem hj⟩
    have htake : (legPath op r k script).take (j + 1) = (legPath op r k script).take j ++ [(g₁, b₁)] := by
      rw [List.take_add_one, hq₁, Option.toList_some]
    rw [htake] at hpass
    have hpass₁ : passes g₁ b₁ = true := hpass (g₁, b₁) (by simp)
    obtain ⟨v, hrun, hv⟩ := ih (fun q hq => hpass q (by simp [hq])) hq₁
    obtain ⟨hg₁, hb₁⟩ := legPath_getElem? hq₁
    obtain ⟨hg, _⟩ := legPath_getElem? hq
    have hnext : nextIndex v (k + j) g₁ (sampleOf g₁ b₁) = k + (j + 1) := by
      rw [nextIndex, nacked_of_passes hpass₁, if_neg (by simp), Nat.add_assoc]
    obtain ⟨w, hrun', hw⟩ := hv.runsTo_next rfl rfl hg₁ (h.follows.segmentInputs hb₁) (ready_of_passes hpass₁)
      (not_lost_of_passes hpass₁) hnext hg
    refine ⟨w, by rw [Nat.succ_mul]; exact hrun.trans hrun', ?_⟩
    rw [legUnit, enterSegment_sampled_of_passes hpass₁, List.drop_drop, ← Nat.succ_mul] at hw
    rwa [legUnit, htake, List.foldl_append]

variable {j : Nat} (hpass : ∀ q ∈ (legPath op r k script).take j, passes q.1 q.2 = true) {g : Segment} {b : Bool}
  (hq : (legPath op r k script)[j]? = some (g, b)) (hready : ready g b = true)
include hpass hq hready

/-- Every cycle of segment `k + j`. -/
theorem OnLeg.runsTo_cycle {c : Nat} (hc : c < p.i2cHCyc) :
    ∃ v, RunsTo (j * p.i2cHCyc + c) u v ∧ v.cmd.curOp = op ∧
      v.rtcm = { enterSegment (k + j) g (legUnit op r k script j) with rtCnt := c } := by
  obtain ⟨hg, hb⟩ := legPath_getElem? hq
  obtain ⟨v, hrun, hv⟩ := h.runsTo_segment hpass hq
  obtain ⟨w, hrun', hw⟩ := hv.runsTo_cycle rfl rfl hg (h.follows.segmentInputs hb) hready hc
  exact ⟨w, hrun.trans hrun', hw.curOp, hw.rtcm⟩

/-- The end of the sequence, where segment `k + j` is the last of the list. -/
theorem OnLeg.runsTo_sequenceEnd (hlast : k + j + 1 = (segmentsOf op r.held).length) :
    ∃ v w, RunsTo ((j + 1) * p.i2cHCyc) u w ∧ v.cmd.curOp = op ∧
      v.rtcm = { enterSegment (k + j) g (legUnit op r k script j) with rtCnt := p.i2cHCyc - 1 } ∧
      Writes v w sequenceEnd := by
  obtain ⟨hg, hb⟩ := legPath_getElem? hq
  obtain ⟨u', hrun, hu'⟩ := h.runsTo_segment hpass hq
  obtain ⟨v, w, hrun', hv, hw⟩ := hu'.runsTo_sequenceEnd rfl rfl hg (h.follows.segmentInputs hb) hready hlast
  exact ⟨v, w, by rw [Nat.succ_mul]; exact hrun.trans hrun', hv.curOp, hv.rtcm, hw⟩

/-- A NACK in segment `k + j` begins the leg of its recovery (R195). -/
theorem OnLeg.runsTo_recovery {code : BusCode} (hend : g.atEnd = .acknowledge code) (hnack : sampleOf g b = true) :
    ∃ w r', RunsTo ((j + 1) * p.i2cHCyc) u w ∧ KeepsRegs r r' ∧
      r'.rtErr = some { phase := g.phase, code := code } ∧
      OnLeg p op (l.drop ((j + 1) * p.i2cHCyc)) ((segmentsOf op r.held).length - 3) r' (script.drop (j + 1)) w := by
  obtain ⟨hg, hb⟩ := legPath_getElem? hq
  obtain ⟨v, hrun, hv⟩ := h.runsTo_segment hpass hq
  have hsegs : segments v = segmentsOf op r.held := by
    rw [segments, hv.curOp, hv.rtcm]
    rfl
  have hstop : nextIndex v (k + j) g (sampleOf g b) = (segmentsOf op r.held).length - 3 := by
    simp [nextIndex, nacked, hend, hnack, stopIndex, hsegs]
  obtain ⟨hlt, _⟩ := List.getElem?_eq_some_iff.1 hg
  have hg' := List.getElem?_eq_getElem (l := segmentsOf op r.held) (i := (segmentsOf op r.held).length - 3) (by omega)
  obtain ⟨w, hrun', hw⟩ := hv.runsTo_next rfl rfl hg (h.follows.segmentInputs hb) hready (by simp [hend]) hstop hg'
  obtain ⟨hj, _⟩ := List.getElem?_eq_some_iff.1 hb
  rw [List.drop_drop, ← Nat.succ_mul] at hw
  refine ⟨w, _, by rw [Nat.succ_mul]; exact hrun.trans hrun', ?_, ?_, ⟨_, ?_, hw⟩, h.follows.drop (j + 1) hj⟩
  · have hkeeps := keepsRegs_sampled g (sampleOf g b) (enterSegment (k + j) g (legUnit op r k script j))
    exact ⟨hkeeps.time, hkeeps.rtcRaw, hkeeps.busErr, hkeeps.busPhase, hkeeps.busCode, hkeeps.secChg, hkeeps.held⟩
  · simp [sampled, hend, hnack]
  · rw [(keepsRegs_sampled g (sampleOf g b) (enterSegment (k + j) g (legUnit op r k script j))).held]
    exact hg'

end Leg

end Sys2Proof.Machine
end

section
/-! PROOFS. Whole RTC commands on a bus without stretching (spec/43_rtc.md section 3): which device lets every segment of a
sequence pass, what RTCM receives from it, and how the sequence ends. -/

namespace Sys2Proof.Machine

/-! ## Devices that let a list of segments pass -/

/-- With this script every segment passes, and the bytes received become `f` of what they were. -/
structure Transfers (segs : List Segment) (script : List Bool) (f : RxBytes → RxBytes) : Prop where
  pass : List.Forall₂ (fun g b => passes g b = true) segs script
  received : ∀ d, ((segs.zip script).foldl receive d).2 = f d.2

theorem Transfers.append {segs segs' : List Segment} {script script' : List Bool} {f f' : RxBytes → RxBytes}
    (h : Transfers segs script f) (h' : Transfers segs' script' f') :
    Transfers (segs ++ segs') (script ++ script') (f' ∘ f) where
  pass := List.rel_append h.pass h'.pass
  received d := by
    rw [List.zip_append h.pass.length_eq, List.foldl_append, h'.received, h.received]
    rfl

/-- Where nothing is taken, passing is all there is to say. -/
theorem transfers_of_receivesNothing {segs : List Segment} {script : List Bool}
    (hpass : List.Forall₂ (fun g b => passes g b = true) segs script)
    (hno : ∀ g ∈ segs, receivesNothing g = true) : Transfers segs script id where
  pass := hpass
  received := foldl_receive_snd fun _ hq => hno _ (List.of_mem_zip hq).1

/-- START on an idle bus (R185). -/
theorem transfers_startList : Transfers startList [false, false] id :=
  transfers_of_receivesNothing (by decide) (by decide)

/-- Repeated START (R186). -/
theorem transfers_restartList : Transfers restartList [false, false, false] id :=
  transfers_of_receivesNothing (by decide) (by decide)

/-- STOP (R187). -/
theorem transfers_stopList (ph : BusPhase) : Transfers (stopList ph) [false, false, false] id :=
  transfers_of_receivesNothing (by cases ph <;> decide) (by cases ph <;> decide)

/-- No other agent pulls SDA low while a bit is sent (R188). -/
theorem sendBits_passes (ph : BusPhase) (x : Byte) (n : Nat) :
    List.Forall₂ (fun g b => passes g b = true) (sendBits ph x n) (List.replicate (2 * n) false) := by
  induction n with
  | zero => exact .nil
  | succ n ih =>
    rw [Nat.mul_succ, List.replicate_succ, List.replicate_succ]
    refine .cons rfl (.cons ?_ ih)
    cases x.getLsbD n <;> rfl

/-- The byte a list loads has no part in its passing. -/
theorem loading_passes {l : List Segment} {script : List Bool} (x : Byte)
    (h : List.Forall₂ (fun g b => passes g b = true) l script) :
    List.Forall₂ (fun g b => passes g b = true) (loading x l) script := by
  cases h with
  | nil => exact .nil
  | cons hg hrest => exact .cons hg hrest

/-- A byte sent and acknowledged (R192). -/
theorem transfers_sendByte (ph : BusPhase) (x : Byte) (nack : BusCode) : Transfers (sendByte ph x nack) ackScript id :=
  transfers_of_receivesNothing (List.rel_append (loading_passes x (sendBits_passes ph x 8)) (.cons rfl (.cons rfl .nil)))
    (sendByte_receivesNothing ph x nack)

/-- The eight bits of a byte shifted in are the byte, whatever was there before. -/
theorem foldl_shiftIn (x z : Byte) :
    ([7, 6, 5, 4, 3, 2, 1, 0] : List Nat).foldl (fun z n => shiftIn z (x.getLsbD n)) z = x := by
  simp only [List.foldl_cons, List.foldl_nil, shiftIn]
  ext k hk
  interval_cases k <;> simp

/-- The two segments of a received bit that is `b`: the device pulls SDA low for a 0 (R190). -/
def bitPath (b : Bool) : List (Segment × Bool) := [(lowSeg .read false, !b), (highSeg .read false .dataBit, !b)]

theorem foldl_receive_bitPath (b : Bool) (d : RxData) : (bitPath b).foldl receive d = (shiftIn d.1 b, d.2) := by
  cases b <;> rfl

/-- The segments of received bits shift each in. -/
theorem foldl_receive_bitPaths (x : Byte) (l : List Nat) (d : RxData) :
    (l.flatMap fun n => bitPath (x.getLsbD n)).foldl receive d =
      (l.foldl (fun z n => shiftIn z (x.getLsbD n)) d.1, d.2) := by
  induction l generalizing d with
  | nil => rfl
  | cons n l ih => rw [List.flatMap_cons, List.foldl_append, foldl_receive_bitPath, ih, List.foldl_cons]

/-- A receiving RTCM has nothing to lose to the device. -/
theorem recvByte_passes (k : Nat) (ack : Bool) {g : Segment} (hg : g ∈ recvByte k ack) (b : Bool) : passes g b = true := by
  have hcases : g = lowSeg .read false ∨ g = highSeg .read false .dataBit ∨ g = lowSeg .read ack ∨
      g = highSeg .read ack (.store k) := by
    simp only [recvByte, recvBits, List.mem_append, List.mem_cons, List.not_mem_nil, or_false] at hg
    tauto
  obtain rfl | rfl | rfl | rfl := hcases <;> rfl

/-- A byte received into its place (R193, R202). -/
theorem transfers_recvByte (k : Nat) (ack : Bool) (x : Byte) :
    Transfers (recvByte k ack) (dataScript x) (storeByte k x) where
  pass := List.forall₂_iff_zip.2 ⟨rfl, fun hq => recvByte_passes k ack (List.of_mem_zip hq).1 _⟩
  received d := by
    have hzip : (recvByte k ack).zip (dataScript x) =
        (([7, 6, 5, 4, 3, 2, 1, 0] : List Nat).flatMap fun n => bitPath (x.getLsbD n)) ++
          [(lowSeg .read ack, false), (highSeg .read ack (.store k), false)] := rfl
    rw [hzip, List.foldl_append, foldl_receive_bitPaths, foldl_shiftIn]
    rfl

/-- A device that acknowledges and answers an RTCRD (R202). -/
theorem transfers_readSegs (x : RxBytes) : Transfers readSegs (readScript x) fun _ => x :=
  transfers_startList.append (transfers_sendByte .write addrW .addrNack) |>.append
    (transfers_sendByte .write 0x00 .dataNack) |>.append transfers_restartList |>.append
    (transfers_sendByte .read addrR .addrNack) |>.append (transfers_recvByte 0 true x.sec) |>.append
    (transfers_recvByte 1 true x.min) |>.append (transfers_recvByte 2 false x.hour) |>.append (transfers_stopList .read)

/-- A device that acknowledges an RTCWR (R206). -/
theorem transfers_writeSegs (t : TimeOfDay) : Transfers (writeSegs t) writeScript id :=
  transfers_startList.append (transfers_sendByte .write addrW .addrNack) |>.append
    (transfers_sendByte .write 0x00 .dataNack) |>.append (transfers_sendByte .write (bcd t.sec.toNat) .dataNack) |>.append
    (transfers_sendByte .write (bcd t.min.toNat) .dataNack) |>.append
    (transfers_sendByte .write (hourByte t.hour.toNat) .dataNack) |>.append (transfers_stopList .write)

end Sys2Proof.Machine
end

section
/-! PROOFS. RTCRD and RTCWR from their acceptance to their end, with a device that acknowledges and with none (spec/43_rtc.md
section 3; spec/70_reset_and_hazards.md section 4). -/

namespace Sys2Proof.Machine

/-! ## A leg on which every segment passes -/

section Leg

variable {p : Params} {op : CurOp} {l : List CycleIn} {k : Nat} {r : RtcmUnit} {script : List Bool} {u : State}
  {f : RxBytes → RxBytes} (h : OnLeg p op l k r script u)
  (hT : Transfers ((segmentsOf op r.held).drop k) script f)

include hT in
/-- The script has an entry for every segment of the leg, with which it passes. -/
theorem Transfers.exists_entry {j : Nat} {g : Segment} (hg : (segmentsOf op r.held)[k + j]? = some g) :
    ∃ b, (legPath op r k script)[j]? = some (g, b) ∧ passes g b = true := by
  obtain ⟨hlt, _⟩ := List.getElem?_eq_some_iff.1 hg
  have hlen := hT.pass.length_eq
  rw [List.length_drop] at hlen
  have hb := List.getElem?_eq_getElem (l := script) (i := j) (by omega)
  have hq : (legPath op r k script)[j]? = some (g, script[j]) := by
    rw [legPath, List.getElem?_zip_eq_some, List.getElem?_drop]
    exact ⟨hg, hb⟩
  exact ⟨_, hq, (List.forall₂_iff_zip.1 hT.pass).2 (List.mem_of_getElem? hq)⟩

include hT in
theorem Transfers.passes_take (j : Nat) : ∀ q ∈ (legPath op r k script).take j, passes q.1 q.2 = true :=
  fun _ hq => (List.forall₂_iff_zip.1 hT.pass).2 (List.mem_of_mem_take hq)

/-- What RTCM receives on a leg is in its shift register and its bytes. -/
theorem keepsRegs_legUnit (op : CurOp) (r : RtcmUnit) (k : Nat) (script : List Bool) (j n c : Nat) (g : Segment) :
    KeepsRegs r { enterSegment n g (legUnit op r k script j) with rtCnt := c } :=
  ⟨rfl, rfl, rfl, rfl, rfl, rfl, rfl⟩

include h

/-- Every cycle up to the end of segment `k + j`, where the segments before it pass. -/
theorem OnLeg.runsTo_upTo {j : Nat} (hpass : ∀ q ∈ (legPath op r k script).take j, passes q.1 q.2 = true) {g : Segment}
    {b : Bool} (hq : (legPath op r k script)[j]? = some (g, b)) (hready : ready g b = true) {n : Nat}
    (hn : n < (j + 1) * p.i2cHCyc) : ∃ v, RunsTo n u v ∧ v.cmd.curOp = op ∧ KeepsRegs r v.rtcm := by
  have hpos : 0 < p.i2cHCyc := Nat.pos_of_ne_zero (by intro hz; simp [hz] at hn)
  have hle : n / p.i2cHCyc < j + 1 := Nat.div_lt_of_lt_mul (by rwa [Nat.mul_comm])
  obtain ⟨⟨g', b'⟩, hq', hready'⟩ : ∃ q, (legPath op r k script)[n / p.i2cHCyc]? = some q ∧ ready q.1 q.2 = true := by
    rcases Nat.lt_succ_iff_lt_or_eq.1 hle with hlt | heq
    · obtain ⟨hj, _⟩ := List.getElem?_eq_some_iff.1 hq
      have hget := List.getElem?_eq_getElem (Nat.lt_trans hlt hj)
      exact ⟨_, hget, ready_of_passes (hpass _ (List.mem_of_getElem? ((List.getElem?_take_of_lt hlt).trans hget)))⟩
    · exact ⟨(g, b), by rw [heq, hq], hready⟩
  have hsub : ∀ q ∈ (legPath op r k script).take (n / p.i2cHCyc), passes q.1 q.2 = true := fun q hq =>
    hpass q (List.take_subset_take_left _ (Nat.le_of_lt_succ hle) hq)
  obtain ⟨v, hrun, hop, hrtcm⟩ := h.runsTo_cycle hsub hq' hready' (Nat.mod_lt n hpos)
  rw [Nat.div_add_mod' n p.i2cHCyc] at hrun
  exact ⟨v, hrun, hop, hrtcm ▸ keepsRegs_legUnit op r k script _ _ _ g'⟩

include hT

/-- Every cycle of every segment of the leg, with that segment's drives. -/
theorem OnLeg.runsTo_cycle_of_transfers {j : Nat} {g : Segment} (hg : (segmentsOf op r.held)[k + j]? = some g) {c : Nat}
    (hc : c < p.i2cHCyc) :
    ∃ v, RunsTo (j * p.i2cHCyc + c) u v ∧ v.cmd.curOp = op ∧ KeepsRegs r v.rtcm ∧
      v.rtcm.sclOe = !g.high ∧ v.rtcm.sdaOe = g.sdaLow := by
  obtain ⟨b, hq, hpass⟩ := hT.exists_entry hg
  obtain ⟨v, hrun, hop, hrtcm⟩ := h.runsTo_cycle (hT.passes_take j) hq (ready_of_passes hpass) hc
  refine ⟨v, hrun, hop, ?_, ?_, ?_⟩ <;> rw [hrtcm]
  · exact keepsRegs_legUnit op r k script j (k + j) c g
  · rfl
  · rfl

/-- Every cycle of the leg. -/
theorem OnLeg.runsTo_of_transfers {n : Nat} (hn : n < script.length * p.i2cHCyc) :
    ∃ v, RunsTo n u v ∧ v.cmd.curOp = op ∧ KeepsRegs r v.rtcm := by
  have hlen := hT.pass.length_eq
  rw [List.length_drop] at hlen
  have hpos : 0 < script.length := Nat.pos_of_ne_zero (by intro hz; simp [hz] at hn)
  obtain ⟨j, hj⟩ := Nat.exists_eq_add_one.2 hpos
  have hg := List.getElem?_eq_getElem (l := segmentsOf op r.held) (i := k + j) (by omega)
  obtain ⟨b, hq, hpass⟩ := hT.exists_entry hg
  exact h.runsTo_upTo (hT.passes_take j) hq (ready_of_passes hpass) (hj ▸ hn)

/-- The end of the leg is the end of the sequence, with the leg's bytes received. -/
theorem OnLeg.runsTo_end_of_transfers (hpos : 0 < script.length) :
    ∃ v w, RunsTo (script.length * p.i2cHCyc) u w ∧ v.cmd.curOp = op ∧ KeepsRegs r v.rtcm ∧
      v.rtcm.rtErr = r.rtErr ∧ v.rtcm.rtRx = f r.rtRx ∧ Writes v w sequenceEnd := by
  have hlen := hT.pass.length_eq
  rw [List.length_drop] at hlen
  obtain ⟨j, hj⟩ := Nat.exists_eq_add_one.2 hpos
  have hg := List.getElem?_eq_getElem (l := segmentsOf op r.held) (i := k + j) (by omega)
  obtain ⟨b, hq, hpass⟩ := hT.exists_entry hg
  obtain ⟨v, w, hrun, hop, hrtcm, hw⟩ :=
    h.runsTo_sequenceEnd (hT.passes_take j) hq (ready_of_passes hpass) (by omega)
  have hend : (segmentsOf op r.held)[k + j].atEnd = .nothing := by
    refine getLast?_segmentsOf (op := op) (held := r.held) ?_
    rw [List.getLast?_eq_getElem?, ← hg]
    congr 1
    omega
  have hpath : (legPath op r k script).take j ++ [((segmentsOf op r.held)[k + j], b)] = legPath op r k script := by
    have htake := List.take_add_one (l := legPath op r k script) (i := j)
    rw [hq, Option.toList_some, List.take_of_length_le (by rw [legPath, List.length_zip]; omega)] at htake
    exact htake.symm
  have hbytes : v.rtcm.rtRx = f r.rtRx := by
    have hall := hT.received (r.rtShift, r.rtRx)
    rw [← legPath, ← hpath, List.foldl_append, List.foldl_cons, List.foldl_nil, receive, hend] at hall
    rw [hrtcm]
    exact hall
  refine ⟨v, w, by rwa [hj], hop, ?_, ?_, hbytes, hw⟩ <;> rw [hrtcm]
  · exact keepsRegs_legUnit op r k script j (k + j) _ _
  · rfl

end Leg

/-! ## Acceptance -/

/-- RTCM as an accepted RTC command leaves it, before START is entered (R201, R205). -/
def acceptedUnit (c : Instr) (r : RtcmUnit) : RtcmUnit :=
  match c with
  | .rtcwr h m x =>
    { clearBusError r with held := { hour := BitVec.ofNat 5 h, min := BitVec.ofNat 6 m, sec := BitVec.ofNat 6 x } }
  | _ => { clearBusError r with secChg := false }

/-- Both RTC commands enter START (R201, R205). -/
theorem Accepted.rtcm_of_rtc {s m : State} {c : Instr} (h : Accepted s c m) (hc : isRtcOp (longOp c) = true) :
    m.rtcm = enterSegment 0 startSeg (acceptedUnit c s.rtcm) := by
  cases h with
  | rtcrd | rtcwr => rfl
  | _ => cases hc

/-- The cycle that accepts a command ends with its command processor and its RTCM. -/
theorem step_of_accepts {s t : State} {c : Instr} (hs : s.Inv) (hacc : Accepts (currentInput s) s c)
    (h : step s = .next t) : ∃ m, Accepted s c m ∧ t.cmd = m.cmd ∧ t.rtcm = m.rtcm := by
  have ⟨hrst, _, _, hidle, _⟩ := hacc
  obtain ⟨hpix, _⟩ := params_positive hs.cfgOk
  rcases step_cases s t h with ⟨hrst', _⟩ | ⟨_, m, level, hm, _, rfl⟩
  · simp [hrst] at hrst'
  · refine ⟨m, (hostAccess_hostWrites hrst hpix hm).accepted hacc, ?_, ?_⟩
    · exact engines_cmd_of_idle _ s m hs.ltxOk hs.rtcmOk hidle
    · simp [engines_of_not_rtc _ s m hs.rtcmOk (by simp [hidle, isRtcOp])]

/-- An accepted RTC command begins its leg in the next cycle. -/
theorem exists_onLeg {i : CycleIn} {l : List CycleIn} {s : State} {c : Instr} {script : List Bool} (hs : s.Inv)
    (hin : s.inputs = i :: l) (hacc : Accepts i s c) (hc : isRtcOp (longOp c) = true)
    (hscript : FollowsScript s.cfg.i2cHCyc script l) :
    ∃ u, RunsTo 1 s u ∧ OnLeg s.cfg (longOp c) l 0 (acceptedUnit c s.rtcm) script u := by
  have hcur : currentInput s = i := by rw [currentInput, hin]
  obtain ⟨u, hu⟩ := step_answers hs
  obtain ⟨m, hm, hcmd, hrtcm⟩ := step_of_accepts hs (hcur ▸ hacc) hu
  have hop : u.cmd.curOp = longOp c := by
    rw [hcmd, hm.cmd, if_neg (by rintro hnone; simp [hnone, isRtcOp] at hc)]
  have hinv := step_inv s u hs hu
  rw [hm.rtcm_of_rtc hc] at hrtcm
  have hstart := segments_zero u (by rw [hop, hc])
  rw [segments, hop, hrtcm] at hstart
  exact ⟨u, RunsTo.succ rfl hu, ⟨startSeg, hstart, hinv, step_cfg hu, hop, by rw [step_inputs hu, hin]; rfl, hrtcm⟩,
    hscript⟩

/-- In an idle block no NACK is being recovered. -/
theorem acceptedUnit_rtErr {s : State} (hs : s.Inv) (hidle : s.cmd.curOp = .none) (c : Instr) :
    (acceptedUnit c s.rtcm).rtErr = none := by
  obtain ⟨_, _, herr, _⟩ := rtcmResting_of_not_rtc hs.rtcmOk (by simp [hidle, isRtcOp])
  unfold acceptedUnit
  split <;> exact herr

/-- Acceptance keeps what the last command read (R27, R28). -/
theorem acceptedUnit_time_rtcRaw (c : Instr) (r : RtcmUnit) :
    (acceptedUnit c r).time = r.time ∧ (acceptedUnit c r).rtcRaw = r.rtcRaw := by
  unfold acceptedUnit
  split <;> exact ⟨rfl, rfl⟩

/-! ## The ends of the sequence -/

/-- Valid bytes end an RTCRD with success (R203). -/
theorem Writes.reads {v w : State} (h : Writes v w sequenceEnd) (hop : v.cmd.curOp = .rtcrd) (he : v.rtcm.rtErr = none)
    (hvalid : rxValid v.rtcm.rtRx = true) :
    w.cmd.curOp = .none ∧ w.cmd.done = true ∧ w.rtcm = (readSuccess v).rtcm := by
  obtain ⟨m, hm, hcmd, hrtcm⟩ := h
  simp only [sequenceEnd, hm.rtcm, he, hm.curOp, hop, if_true, hvalid] at hcmd hrtcm
  exact ⟨by rw [hcmd]; rfl, by rw [hcmd]; rfl, by rw [hrtcm, readSuccess_rtcm, readSuccess_rtcm, hm.rtcm]⟩

/-- Other bytes end it with RANGE (R204). -/
theorem Writes.rangeError {v w : State} (h : Writes v w sequenceEnd) (hop : v.cmd.curOp = .rtcrd)
    (he : v.rtcm.rtErr = none) (hvalid : rxValid v.rtcm.rtRx = false) :
    EndsWithError v w { phase := .read, code := .range } ∧ w.rtcm.rtcRaw = rxRaw v.rtcm.rtRx := by
  obtain ⟨m, hm, hcmd, hrtcm⟩ := h
  simp only [sequenceEnd, hm.rtcm, he, hm.curOp, hop, if_true, hvalid] at hcmd hrtcm
  exact Writes.endsWithError_raw ⟨m, hm, hcmd, hrtcm⟩

/-- The end of the list ends an RTCWR with success (R207). -/
theorem Writes.writes {v w : State} (h : Writes v w sequenceEnd) (hop : v.cmd.curOp = .rtcwr) (he : v.rtcm.rtErr = none) :
    w.cmd.curOp = .none ∧ w.cmd.done = true ∧ w.rtcm = (writeSuccess v).rtcm := by
  obtain ⟨m, hm, hcmd, hrtcm⟩ := h
  simp only [sequenceEnd, hm.rtcm, he, hm.curOp, hop, reduceCtorEq, if_false] at hcmd hrtcm
  exact ⟨by rw [hcmd]; rfl, by rw [hcmd]; rfl, by rw [hrtcm, writeSuccess_rtcm, writeSuccess_rtcm, hm.rtcm]⟩

/-! ## RTCRD -/

/-- RTCM as an accepted RTCRD leaves it. -/
abbrev readUnit (s : State) : RtcmUnit := acceptedUnit .rtcrd s.rtcm

theorem readScript_length (x : RxBytes) : (readScript x).length = 116 := rfl

section Read

variable {i : CycleIn} {l : List CycleIn} {s : State} {x : RxBytes} (hs : s.Inv) (hidle : s.cmd.curOp = .none)
  (hin : s.inputs = i :: l) (hw : WritesCmd i 0x70000000) (hscript : FollowsScript s.cfg.i2cHCyc (readScript x) l)
include hs hidle hin hw hscript

/-- The RTCRD is accepted and begins its one leg. -/
theorem read_begins : ∃ u, RunsTo 1 s u ∧ OnLeg s.cfg .rtcrd l 0 (readUnit s) (readScript x) u := by
  obtain ⟨hrst, hreq, haddr, hdata⟩ := hw
  exact exists_onLeg (c := .rtcrd) hs hin ⟨hrst, hreq, haddr, hidle, by rw [hdata]; decide, rfl⟩ rfl hscript

/-- Its end finds the device's bytes received (R202). -/
theorem read_ends :
    ∃ v w, RunsTo (1 + 116 * s.cfg.i2cHCyc) s w ∧ v.cmd.curOp = .rtcrd ∧ KeepsRegs (readUnit s) v.rtcm ∧
      v.rtcm.rtErr = none ∧ v.rtcm.rtRx = x ∧ Writes v w sequenceEnd := by
  obtain ⟨u, hu, hleg⟩ := read_begins hs hidle hin hw hscript
  obtain ⟨v, w, hrun, hop, hkeeps, herr, hbytes, hend⟩ :=
    hleg.runsTo_end_of_transfers (transfers_readSegs x) (by rw [readScript_length]; omega)
  exact ⟨v, w, hu.trans hrun, hop, hkeeps, herr.trans (acceptedUnit_rtErr hs hidle .rtcrd), hbytes, hend⟩

end Read

/-- Settles O35: every segment passes with its own drives, which are the rules', and the end finds valid bytes. -/
theorem rtcrdReadsTheTime : Obligations.RtcrdReadsTheTime := by
  unfold Obligations.RtcrdReadsTheTime
  intro i l s x hs hidle hin hw hscript hsec hmin hhour
  obtain ⟨u, hu, hleg⟩ := read_begins hs hidle hin hw hscript
  refine ⟨fun n hn => ?busy, fun k w hk c hc => ?drives, ?ends⟩
  case busy =>
    obtain ⟨v, hrun, hop, hkeeps⟩ := hleg.runsTo_of_transfers (transfers_readSegs x) hn
    exact ⟨v, hu.trans hrun, hop, hkeeps.time⟩
  case drives =>
    rw [← map_wireStepOf_readSegs, List.getElem?_map, Option.map_eq_some_iff] at hk
    obtain ⟨g, hg, rfl⟩ := hk
    obtain ⟨v, hrun, _, _, hscl, hsda⟩ :=
      hleg.runsTo_cycle_of_transfers (transfers_readSegs x) (j := k) (by rwa [Nat.zero_add]) hc
    exact ⟨v, by rw [Nat.add_assoc]; exact hu.trans hrun, hscl, hsda⟩
  case ends =>
    obtain ⟨v, w, hrun, hop, hkeeps, herr, hbytes, hend⟩ := read_ends hs hidle hin hw hscript
    have hvalid : rxValid v.rtcm.rtRx = true := by simp [hbytes, rxValid, hsec, hmin, hhour]
    obtain ⟨hnone, hdone, hrtcm⟩ := hend.reads hop herr hvalid
    obtain ⟨htsec, htmin, hthour⟩ := rxTime_toNat hvalid
    rw [hbytes] at htsec htmin hthour
    refine ⟨w, hrun, hnone, hdone, ?_, ?_, ?_, ?_, ?_, ?_, ?_, ?_⟩ <;> rw [hrtcm, readSuccess_rtcm, hbytes]
    · exact htsec
    · exact htmin
    · exact hthour
    · exact rxRaw_eq_append x
    · rw [hkeeps.time]
      rfl
    all_goals rfl

/-- Settles O36: the same sequence ends with bytes that are not all valid. -/
theorem rtcrdRangeErrorKeepsTime : Obligations.RtcrdRangeErrorKeepsTime := by
  unfold Obligations.RtcrdRangeErrorKeepsTime
  intro i l s x hs hidle hin hw hscript hbad
  obtain ⟨v, w, hrun, hop, hkeeps, herr, hbytes, hend⟩ := read_ends hs hidle hin hw hscript
  have hvalid : rxValid v.rtcm.rtRx = false := by
    simp only [hbytes, rxValid, Bool.and_assoc, Bool.eq_false_iff, ne_eq, Bool.and_eq_true]
    exact hbad
  obtain ⟨⟨hbusErr, hphase, hcode, _, _, _, hnone, hdone, htime, hchg⟩, hraw⟩ := hend.rangeError hop herr hvalid
  rw [if_pos hop] at hchg
  rw [hbytes, rxRaw_eq_append] at hraw
  exact ⟨w, hrun, hnone, hdone, htime.trans hkeeps.time, hchg, hraw, hbusErr, hphase, hcode⟩

/-! ## RTCWR -/

/-- A bit of a byte sent: SCL is released in its second segment, and SDA low for a 0 (R188, R192). -/
theorem sendByte_bit (ph : BusPhase) (x : Byte) (nack : BusCode) {k : Nat} (hk : k < 8) :
    ∃ g, (sendByte ph x nack)[2 * k + 1]? = some g ∧ g.high = true ∧ g.sdaLow = !x.getLsbD (7 - k) := by
  interval_cases k <;> exact ⟨_, rfl, rfl, rfl⟩

/-- Where all blocks of a list have one length, an index is a place in a block. -/
theorem getElem?_flatMap_block {α β : Type} {f : α → List β} {len : Nat} (hf : ∀ a, (f a).length = len) {l : List α}
    {b n : Nat} {a : α} (ha : l[b]? = some a) (hn : n < len) : (l.flatMap f)[len * b + n]? = (f a)[n]? := by
  induction l generalizing b with
  | nil => simp at ha
  | cons a' l ih =>
    rw [List.flatMap_cons]
    cases b with
    | zero =>
      rw [List.getElem?_cons_zero, Option.some.injEq] at ha
      rw [ha, Nat.mul_zero, Nat.zero_add, List.getElem?_append_left (by rwa [hf])]
    | succ b =>
      rw [List.getElem?_cons_succ] at ha
      have hskip : len * (b + 1) + n - len = len * b + n := by
        rw [Nat.mul_succ]
        omega
      rw [List.getElem?_append_right (by rw [hf, Nat.mul_succ]; omega), hf, hskip, ih ha]

/-- The bytes an RTCWR of this time sends, each with the code its NACK is reported with (R206). -/
def sentBytes (t : TimeOfDay) : List (Byte × BusCode) :=
  [(addrW, .addrNack), (0x00, .dataNack), (bcd t.sec.toNat, .dataNack), (bcd t.min.toNat, .dataNack),
    (hourByte t.hour.toNat, .dataNack)]

theorem map_fst_sentBytes (t : TimeOfDay) :
    (sentBytes t).map Prod.fst = writtenBytes t.hour.toNat t.min.toNat t.sec.toNat := rfl

theorem writeSegs_eq_flatMap (t : TimeOfDay) :
    writeSegs t = startList ++ ((sentBytes t).flatMap (fun q => sendByte .write q.1 q.2) ++ stopList .write) := by
  simp [writeSegs, sentBytes]

/-- The bytes stand in the list one after the other, 18 segments each. -/
theorem writeSegs_byte (t : TimeOfDay) {b n : Nat} {x : Byte}
    (hx : (writtenBytes t.hour.toNat t.min.toNat t.sec.toNat)[b]? = some x) (hn : n < 18) :
    ∃ nack, (writeSegs t)[2 + 18 * b + n]? = (sendByte .write x nack)[n]? := by
  rw [← map_fst_sentBytes, List.getElem?_map, Option.map_eq_some_iff] at hx
  obtain ⟨⟨y, nack⟩, hq, rfl⟩ := hx
  have hblock := getElem?_flatMap_block (f := fun q : Byte × BusCode => sendByte .write q.1 q.2) (fun _ => rfl) hq hn
  obtain ⟨hlt, _⟩ := List.getElem?_eq_some_iff.1 (hblock.trans (List.getElem?_eq_getElem (by exact hn)))
  have hskip : 2 + 18 * b + n - startList.length = 18 * b + n := by
    simp only [startList, List.length_cons, List.length_nil]
    omega
  refine ⟨nack, ?_⟩
  rw [writeSegs_eq_flatMap, List.getElem?_append_right (by simp only [startList, List.length_cons, List.length_nil]; omega),
    hskip, List.getElem?_append_left hlt, hblock]

/-- RTCM as an accepted RTCWR leaves it holds the operands. -/
theorem acceptedUnit_held {h m x : Nat} (hh : h ≤ 23) (hm : m ≤ 59) (hx : x ≤ 59) (r : RtcmUnit) :
    (acceptedUnit (.rtcwr h m x) r).held.hour.toNat = h ∧ (acceptedUnit (.rtcwr h m x) r).held.min.toNat = m ∧
      (acceptedUnit (.rtcwr h m x) r).held.sec.toNat = x :=
  ⟨(BitVec.toNat_ofNat h 5).trans (Nat.mod_eq_of_lt (by omega)),
    (BitVec.toNat_ofNat m 6).trans (Nat.mod_eq_of_lt (by omega)),
    (BitVec.toNat_ofNat x 6).trans (Nat.mod_eq_of_lt (by omega))⟩

/-- Settles O37: every segment passes with its own drives, among them those of the bytes' bits, and the end is clean. -/
theorem rtcwrSendsTheTime : Obligations.RtcwrSendsTheTime := by
  unfold Obligations.RtcwrSendsTheTime
  intro i l s h m x hs hidle hin hh hm hx hw hscript
  have ⟨hrst, hreq, haddr, hdata⟩ := hw
  have hwf : (Instr.rtcwr h m x).wf = true := by
    simp only [Instr.wf, Bool.and_eq_true, decide_eq_true_eq]
    omega
  have hok : argOk s.cfg (.rtcwr h m x) = true := decide_eq_true ⟨hh, hm, hx⟩
  have hacc : Accepts i s (.rtcwr h m x) := ⟨hrst, hreq, haddr, hidle, by rw [hdata, decode_encode hwf], hok⟩
  obtain ⟨u, hu, hleg⟩ := exists_onLeg hs hin hacc rfl hscript
  have hT := transfers_writeSegs (acceptedUnit (.rtcwr h m x) s.rtcm).held
  refine ⟨fun b y hy k hk c hc => ?bits, fun n hn => ?busy, ?ends⟩
  case bits =>
    obtain ⟨hhour, hmin, hsec⟩ := acceptedUnit_held hh hm hx s.rtcm
    rw [← hhour, ← hmin, ← hsec] at hy
    obtain ⟨nack, hbyte⟩ := writeSegs_byte _ hy (n := 2 * k + 1) (by omega)
    obtain ⟨g, hg, hhigh, hlow⟩ := sendByte_bit .write y nack hk
    obtain ⟨v, hrun, _, _, hscl, hsda⟩ :=
      hleg.runsTo_cycle_of_transfers hT (j := 2 + 18 * b + (2 * k + 1)) (by rw [Nat.zero_add]; exact hbyte.trans hg) hc
    refine ⟨v, ?_, by rw [hscl, hhigh]; rfl, by rw [hsda, hlow]⟩
    rw [Nat.add_assoc 1]
    exact hu.trans hrun
  case busy =>
    obtain ⟨v, hrun, hop, _⟩ := hleg.runsTo_of_transfers hT hn
    exact ⟨v, hu.trans hrun, hop⟩
  case ends =>
    obtain ⟨v, w, hrun, hop, hkeeps, herr, _, hend⟩ := hleg.runsTo_end_of_transfers hT (by decide)
    obtain ⟨hnone, hdone, hrtcm⟩ := hend.writes hop (herr.trans (acceptedUnit_rtErr hs hidle _))
    refine ⟨w, hu.trans hrun, hnone, hdone, ?_, ?_, ?_, ?_⟩ <;> rw [hrtcm]
    · rfl
    · exact hkeeps.time
    · exact hkeeps.rtcRaw
    · exact hkeeps.secChg

/-! ## No device -/

/-- Both sequences begin with START and the address byte (R202, R206). -/
theorem exists_segmentsOf_eq_address_append {op : CurOp} (h : isRtcOp op = true) (held : TimeOfDay) :
    ∃ rest, segmentsOf op held = (startList ++ sendByte .write addrW .addrNack) ++ rest := by
  cases op with
  | none | tx => cases h
  | rtcrd =>
    exact ⟨_, by simp only [segmentsOf, readSegs, List.append_assoc]; rfl⟩
  | rtcwr =>
    exact ⟨_, by simp only [segmentsOf, writeSegs, List.append_assoc]; rfl⟩

/-- With no device every segment up to the acknowledge of the address passes, and the acknowledge is a NACK. -/
theorem addressPath_passes :
    (∀ q ∈ ((startList ++ sendByte .write addrW .addrNack).zip (List.replicate 20 false)).take 19,
      passes q.1 q.2 = true) ∧
    ((startList ++ sendByte .write addrW .addrNack).zip (List.replicate 20 false))[19]? =
      some (highSeg .write false (.acknowledge .addrNack), false) := by decide

/-- The leg of an absent device begins with the path of the address. -/
theorem legPath_absent {op : CurOp} (h : isRtcOp op = true) (r : RtcmUnit) :
    ∃ rest, legPath op r 0 (List.replicate 23 false) =
      (startList ++ sendByte .write addrW .addrNack).zip (List.replicate 20 false) ++ rest := by
  obtain ⟨rest, hrest⟩ := exists_segmentsOf_eq_address_append h r.held
  have hreplicate : List.replicate 23 false = List.replicate 20 false ++ List.replicate 3 false := rfl
  rw [legPath, hrest, List.drop_zero, hreplicate, List.zip_append (by rfl)]
  exact ⟨_, rfl⟩

/-- The recovery's leg is STOP (R195). -/
theorem exists_drop_segmentsOf_eq_stopList {op : CurOp} (h : isRtcOp op = true) (held : TimeOfDay) :
    ∃ ph, (segmentsOf op held).drop ((segmentsOf op held).length - 3) = stopList ph := by
  obtain ⟨front, ph, heq⟩ := exists_segmentsOf_eq_append_stopList h held
  have hlen : (segmentsOf op held).length - 3 = front.length := by simp [heq, stopList]
  exact ⟨ph, by rw [hlen, heq, List.drop_left]⟩

/-- With no device a leg runs through the address byte, and its NACK begins the leg of STOP (R195). -/
theorem OnLeg.runsTo_absent {p : Params} {op : CurOp} {l : List CycleIn} {r : RtcmUnit} {u : State}
    (h : OnLeg p op l 0 r (List.replicate 23 false) u) (hop : isRtcOp op = true) :
    (∀ n < 20 * p.i2cHCyc, ∃ v, RunsTo n u v ∧ v.cmd.curOp = op) ∧
    ∃ w k r', RunsTo (20 * p.i2cHCyc) u w ∧ KeepsRegs r r' ∧
      r'.rtErr = some { phase := .write, code := .addrNack } ∧
      OnLeg p op (l.drop (20 * p.i2cHCyc)) k r' [false, false, false] w ∧
      Transfers ((segmentsOf op r'.held).drop k) [false, false, false] id := by
  obtain ⟨rest, hpath⟩ := legPath_absent hop r
  obtain ⟨hpass, hnack⟩ := addressPath_passes
  have hlen : ((startList ++ sendByte .write addrW .addrNack).zip (List.replicate 20 false)).length = 20 := rfl
  rw [← List.take_append_of_le_length (l₂ := rest) (by rw [hlen]; omega), ← hpath] at hpass
  rw [← List.getElem?_append_left (l₂ := rest) (by rw [hlen]; omega), ← hpath] at hnack
  refine ⟨fun n hn => ?_, ?_⟩
  · obtain ⟨v, hrun, hcur, _⟩ := h.runsTo_upTo hpass hnack rfl hn
    exact ⟨v, hrun, hcur⟩
  · obtain ⟨w, r', hrun, hkeeps, herr, hstop⟩ := h.runsTo_recovery hpass hnack rfl rfl rfl
    obtain ⟨ph, hdrop⟩ := exists_drop_segmentsOf_eq_stopList hop r.held
    refine ⟨w, _, r', hrun, hkeeps, herr, hstop, ?_⟩
    rw [hkeeps.held, hdrop]
    exact transfers_stopList ph

/-- Settles O38: the address byte is sent on a free bus and not acknowledged, and the STOP of the recovery reports it. -/
theorem absentDeviceIsAddrNack : Obligations.AbsentDeviceIsAddrNack := by
  unfold Obligations.AbsentDeviceIsAddrNack
  intro i l s c hs hin hacc hc hscript
  have hrtc : isRtcOp (longOp c) = true := by simpa [isRtcOp] using hc
  obtain ⟨u, hu, hleg⟩ := exists_onLeg hs hin hacc hrtc hscript
  obtain ⟨haddress, w, k, r', hrun, hkeeps, herr, hstop, hT⟩ := hleg.runsTo_absent hrtc
  obtain ⟨htime, hraw⟩ := acceptedUnit_time_rtcRaw c s.rtcm
  refine ⟨fun n hn => ?busy, ?ends⟩
  case busy =>
    rcases Nat.lt_or_ge n (20 * s.cfg.i2cHCyc) with hlt | hge
    · obtain ⟨v, hrun', hop⟩ := haddress n hlt
      exact ⟨v, hu.trans hrun', hop⟩
    · obtain ⟨m, rfl⟩ := Nat.exists_eq_add_of_le hge
      have hm : m < 3 * s.cfg.i2cHCyc := by omega
      obtain ⟨v, hrun', hop, _⟩ := hstop.runsTo_of_transfers hT hm
      exact ⟨v, by rw [← Nat.add_assoc]; exact (hu.trans hrun).trans hrun', hop⟩
  case ends =>
    obtain ⟨v, x, hrun', hop, hkeeps', herr', _, hend⟩ := hstop.runsTo_end_of_transfers hT (by decide)
    obtain ⟨⟨hbusErr, hphase, hcode, _, _, _, hnone, hdone, ht, _⟩, hr⟩ :=
      (hend.sequenceEnd_of_pending (herr'.trans herr)).endsWithError
    refine ⟨x, ?_, hnone, hdone, hbusErr, hphase, hcode, ?_, ?_⟩
    · have hsum : 1 + 23 * s.cfg.i2cHCyc = 1 + 20 * s.cfg.i2cHCyc + 3 * s.cfg.i2cHCyc := by omega
      rw [hsum]
      exact (hu.trans hrun).trans hrun'
    · rw [ht, hkeeps'.time, hkeeps.time, htime]
    · rw [hr, hkeeps'.rtcRaw, hkeeps.rtcRaw, hraw]

end Sys2Proof.Machine
end
